-- ==== Sys2Proof/Word.lean ====
section
/-! DEFINITION. The word types of TotpClip CORE (00_scope.md R9, R10): every bus register is 32 bits wide, the time
and the counter are 64 bits, characters, key bytes and digest bytes are 8 bits. -/

namespace Sys2Proof

/-- An 8-bit byte or character code (00_scope.md R14). -/
abbrev Byte := BitVec 8

/-- A 32-bit bus register value (00_scope.md R9). -/
abbrev Word := BitVec 32

/-- A 64-bit time or counter (00_scope.md R9). -/
abbrev DWord := BitVec 64

end Sys2Proof
end

