-- ==== Sys2Proof/Config.lean ====
section
/-! DEFINITION. The implementation parameters of 00_scope.md R8, and no others. They are carried in State as data
that no step changes, so a statement about every state is a statement about every configuration (log 4). -/

namespace Sys2Proof

/-- The two parameters the spec leaves to an implementation (00_scope.md R8). -/
structure Config where
  /-- KEY_MAX_BYTES, the capacity of the key buffer in bytes, 1 to 65535 (`Config.wf`). -/
  keyMaxBytes : Nat
  /-- BASE, the bus address of the 256-byte register window; OPEN, any value. -/
  base : Nat
  deriving DecidableEq, Repr

/-- The configuration of `State.reset`: the default KEY_MAX_BYTES of 00_scope.md R8, and a BASE of 0.
DESIGN CHOICE (log 4): the spec leaves BASE open; no statement rests on the value 0. -/
def Config.default : Config where
  keyMaxBytes := 64
  base := 0

end Sys2Proof
end

