-- ==== Sys2Proof/Syntax.lean ====
section
/-! DEFINITION. The commands of 30_encoding.md R84, one constructor per row of spec/opcode_table.json. -/

namespace Sys2Proof

/-- A command of the block (30_encoding.md R84). Every operand but the character of B32_PUSH comes from a register,
read by the ENGINE when it executes the command (30_encoding.md R89). -/
inductive Instr where
  /-- KEY_CLEAR: start a new secret (41_base32.md R105). -/
  | keyClear
  /-- B32_PUSH c: feed the secret character with the 8-bit code `c` to the decoder (41_base32.md R106). -/
  | b32Push (c : Byte)
  /-- TOTP_GEN: compute the code for the time in TIME (43_generate.md R178). -/
  | totpGen
  /-- HOTP_GEN: compute the code for the counter in CTR (43_generate.md R179). -/
  | hotpGen
  deriving DecidableEq, Repr

end Sys2Proof
end

