-- ==== Sys2Proof/WellFormed.lean ====
section
/-! DEFINITION. Which configurations and which instructions are well formed. -/

namespace Sys2Proof

/-- A configuration the spec admits: 1 <= KEY_MAX_BYTES <= 65535; BASE is any value (00_scope.md R8). -/
abbrev Config.wf (c : Config) : Prop := 1 ≤ c.keyMaxBytes ∧ c.keyMaxBytes ≤ 65535

/-- Every instruction is well formed: the one operand, B32_PUSH's ARG, is legal at every value 0x00 to 0xFF
(30_encoding.md R82); whether the character is accepted is a check of the execution. -/
def Instr.wf : Instr → Bool
  | .keyClear => true
  | .b32Push _ => true
  | .totpGen => true
  | .hotpGen => true

end Sys2Proof
end

