-- ==== Sys2Proof/Decode.lean ====
section
/-! DEFINITION. The command word (30_encoding.md R80 to R90): its fields, the opcode map, the decoder and the encoder. -/

namespace Sys2Proof

/-- OP = w[7:0] (30_encoding.md R81). -/
def opField (w : Word) : Byte := w.extractLsb' 0 8

/-- ARG = w[15:8] (30_encoding.md R82). -/
def argField (w : Word) : Byte := w.extractLsb' 8 8

/-- RSVD = w[31:16] (30_encoding.md R83). -/
def rsvdField (w : Word) : BitVec 16 := w.extractLsb' 16 16

/-- A row of the opcode map: it selects the words `w` with `w &&& mask = pattern` (30_encoding.md R84). -/
structure OpcodeRow where
  mnemonic : String
  pattern : Word
  mask : Word
  deriving DecidableEq, Repr

/-- The row selects the word (30_encoding.md R84). -/
def rowSelects (r : OpcodeRow) (w : Word) : Bool := w &&& r.mask == r.pattern

/-- The opcode map of 30_encoding.md R84, in the table's order. -/
def opcodeMap : List OpcodeRow :=
  [ ⟨"KEY_CLEAR", 0x00000001, 0xFFFFFFFF⟩,
    ⟨"B32_PUSH", 0x00000002, 0xFFFF00FF⟩,
    ⟨"TOTP_GEN", 0x00000003, 0xFFFFFFFF⟩,
    ⟨"HOTP_GEN", 0x00000004, 0xFFFFFFFF⟩ ]

/-- The legal words, as 30_encoding.md R85 writes them. -/
def legal (w : Word) : Bool :=
  rsvdField w == 0 &&
    (opField w == 0x02 || ((opField w == 0x01 || opField w == 0x03 || opField w == 0x04) && argField w == 0))

/-- Why a word is no command (30_encoding.md R81 to R83). All three complete as ILLEGAL_COMMAND. -/
inductive IllegalWord where
  /-- RSVD is not 0 (30_encoding.md R83). -/
  | reservedFieldNonzero
  /-- ARG is not 0 in a command that takes no operand (30_encoding.md R82). -/
  | argumentNonzero
  /-- OP is 0x00 or 0x05 to 0xFF (30_encoding.md R81). -/
  | operationReserved
  deriving DecidableEq, Repr

/-- A command without an operand: ARG must be 0 (30_encoding.md R82). -/
def withoutOperand (w : Word) (i : Instr) : Except IllegalWord Instr :=
  if argField w = 0 then .ok i else .error .argumentNonzero

/-- The decoder, total on 32-bit words; an error is R90's ILLEGAL (30_encoding.md R90). -/
def decode (w : Word) : Except IllegalWord Instr :=
  if rsvdField w ≠ 0 then .error .reservedFieldNonzero
  else if opField w = 0x01 then withoutOperand w .keyClear
  else if opField w = 0x02 then .ok (.b32Push (argField w))
  else if opField w = 0x03 then withoutOperand w .totpGen
  else if opField w = 0x04 then withoutOperand w .hotpGen
  else .error .operationReserved

/-- The word of a command: `rrrrrrrrrrrrrrrr aaaaaaaa oooooooo` (30_encoding.md R80, R84). -/
def encode : Instr → Word
  | .keyClear => 0#16 ++ 0x00#8 ++ 0x01#8
  | .b32Push c => 0#16 ++ c ++ 0x02#8
  | .totpGen => 0#16 ++ 0x00#8 ++ 0x03#8
  | .hotpGen => 0#16 ++ 0x00#8 ++ 0x04#8

/-- The mnemonic of 30_encoding.md R84. -/
def Instr.mnemonic : Instr → String
  | .keyClear => "KEY_CLEAR"
  | .b32Push _ => "B32_PUSH"
  | .totpGen => "TOTP_GEN"
  | .hotpGen => "HOTP_GEN"

/-- The instruction read from a word whose low `nbits` bits are those of `w` and whose other bits are 0; a command is
one 32-bit word (30_encoding.md R88), so a value of more than 32 bits is none. -/
def decodeTableWord (nbits w : Nat) : Option Instr :=
  if w % 2 ^ nbits < 2 ^ 32 then (decode (BitVec.ofNat 32 (w % 2 ^ nbits))).toOption else none

end Sys2Proof
end

