-- ==== Sys2Proof/Machine/State.lean ====
section
/-! DEFINITION. The state of the block as plain data (10_state.md R22), the HOST's operations and the schedule that
drive it, the reasons a step can stop, and the state after reset (70_reset_and_hazards.md R230). -/

namespace Sys2Proof.Machine

/-- Faults: none. The block has no trap mechanism, and an error code is a value the HOST reads, not a fault
(60_exceptions.md R206, R220; log 17). Nothing raises one. -/
inductive Fault where
  deriving DecidableEq, Repr

/-- The reasons a step has no meaning. -/
inductive Refusal where
  /-- Raised by an arm of `exec` whose instruction has no meaning yet; safe. No arm does. -/
  | notModelled (mnemonic : String)
  /-- Raised by a HOST access that is not 32 bits wide (20_memory.md R62); safe. -/
  | busWidth
  /-- Raised by a HOST access outside offsets 0x00 to 0xFF of the window (20_memory.md R62); safe. -/
  | busWindow
  /-- Raised by a HOST access at an offset that is no multiple of 4 (20_memory.md R62); safe. -/
  | busAlignment
  /-- Raised by a HOST read or write or an ENGINE step before the first reset (70_reset_and_hazards.md R233); safe. -/
  | beforeFirstReset
  deriving DecidableEq, Repr

/-- Bytes by address, held in the one canonical form `Memory.wf`; an unlisted address reads as 0x00, the reset content
of every byte of KEY (10_state.md R45; log 6). -/
abbrev Memory := List Host.Cell

/-- The fields of STATUS (10_state.md R25). Its reserved bits read 0 and are not stored (10_state.md R32). -/
structure Status where
  /-- Bit 0 (10_state.md R26). -/
  busy : Bool
  /-- Bit 1 (10_state.md R27). -/
  done : Bool
  /-- Bit 2 (10_state.md R28). -/
  keyInvalid : Bool
  /-- Bit 3 (10_state.md R29). -/
  overrun : Bool
  /-- Bit 4 (10_state.md R30). -/
  resultValid : Bool
  /-- Bits 11:8 (10_state.md R31). -/
  errCode : BitVec 4
  deriving DecidableEq, Repr

/-- The result registers, each at the width its rule names; the other bits of a register read 0 (10_state.md R32). -/
structure Results where
  /-- HASH0 to HASH4, digest bytes 0..3, 4..7, 8..11, 12..15, 16..19 (10_state.md R37). -/
  hash0 : Word
  hash1 : Word
  hash2 : Word
  hash3 : Word
  hash4 : Word
  /-- TRUNC bits 30:0 (10_state.md R38). -/
  trunc : BitVec 31
  /-- OFFSET bits 3:0 (10_state.md R39). -/
  offset : BitVec 4
  /-- CODE bits 19:0 (10_state.md R40). -/
  code : BitVec 20
  /-- CODE_STR0, digits d0..d3 (10_state.md R41). -/
  codeStr0 : Word
  /-- CODE_STR1 bits 31:16, digits d4 and d5; bits 15:0 read 0 (10_state.md R41). -/
  codeStr1 : BitVec 16
  /-- REMAIN bits 4:0 (10_state.md R42). -/
  remain : BitVec 5
  deriving DecidableEq, Repr

/-- The two agents that take steps (00_scope.md R15). -/
inductive Agent where
  | host
  | engine
  deriving DecidableEq, Repr

/-- An operation of the HOST: a bus transaction at a bus address with a width in bytes (20_memory.md R63, R64), the
polling loop WAIT (30_encoding.md R92), or the reset (70_reset_and_hazards.md R230). -/
inductive HostOp where
  | read (addr size : Nat)
  | write (addr size : Nat) (v : Word)
  | wait
  | reset
  deriving DecidableEq, Repr

/-- The state: the registers and the hidden state of 10_state.md R22, the configuration (log 4), and the model's own
fields `wasReset`, `host`, `turns`, `reads` (logs 1, 3, 5). -/
structure State where
  /-- KEY_MAX_BYTES and BASE (00_scope.md R8); no step changes them. -/
  config : Config
  /-- At least one reset has been applied (70_reset_and_hazards.md R233). -/
  wasReset : Bool
  status : Status
  /-- TIME = {TIME_HI, TIME_LO}, milliseconds (10_state.md R33). -/
  timeLo : Word
  timeHi : Word
  /-- CTR = {CTR_HI, CTR_LO} (10_state.md R34). -/
  ctrLo : Word
  ctrHi : Word
  /-- KEY_LEN bits 15:0 (10_state.md R35). -/
  keyLen : BitVec 16
  /-- B32_STATE bits 3:0 (10_state.md R36). -/
  bitCnt : BitVec 4
  results : Results
  /-- KEY, hidden (10_state.md R45). -/
  key : Memory
  /-- BITBUF, hidden, at most 7 bits between commands (10_state.md R46). -/
  bitBuf : BitVec 7
  /-- PENDING, hidden (10_state.md R47). -/
  pending : Word
  /-- The HOST operations still to be issued, in order (log 3). -/
  host : List HostOp
  /-- Which agent takes each coming step (20_memory.md R67; log 1). -/
  turns : List Agent
  /-- What the HOST's reads have returned, newest first (log 3). -/
  reads : List Word
  deriving DecidableEq, Repr

/-- STATUS after reset reads 0x00000000 (70_reset_and_hazards.md R230). -/
def Status.cleared : Status where
  busy := false
  done := false
  keyInvalid := false
  overrun := false
  resultValid := false
  errCode := 0

/-- The result registers after reset, 0 each (10_state.md R37 to R42). -/
def Results.cleared : Results where
  hash0 := 0
  hash1 := 0
  hash2 := 0
  hash3 := 0
  hash4 := 0
  trunc := 0
  offset := 0
  code := 0
  codeStr0 := 0
  codeStr1 := 0
  remain := 0

/-- The state right after a reset of a block with the configuration `c` (70_reset_and_hazards.md R230). -/
def State.resetWith (c : Config) : State where
  config := c
  wasReset := true
  status := .cleared
  timeLo := 0
  timeHi := 0
  ctrLo := 0
  ctrHi := 0
  keyLen := 0
  bitCnt := 0
  results := .cleared
  key := []
  bitBuf := 0
  pending := 0
  host := []
  turns := []
  reads := []

/-- The state right after reset (70_reset_and_hazards.md R230), at the default configuration (log 4). -/
def State.reset : State := .resetWith .default

end Sys2Proof.Machine
end

