-- ==== Sys2Proof/Machine/Flags.lean ====
section
/-! DEFINITION. The STATUS fields: the word the HOST reads, and every way a field is written (10_state.md R25 to R32,
R49). -/

namespace Sys2Proof.Machine

/-- The outcomes of a command (60_exceptions.md R201). -/
inductive ErrCode where
  | ok
  | invalidInput
  | crypto
  | keyPoisoned
  | keyOverflow
  | illegalCommand
  deriving DecidableEq, Repr

/-- The value of an outcome in STATUS.ERRCODE; 6 to 15 are never produced (60_exceptions.md R201). -/
def errCodeValue : ErrCode → BitVec 4
  | .ok => 0
  | .invalidInput => 1
  | .crypto => 2
  | .keyPoisoned => 3
  | .keyOverflow => 4
  | .illegalCommand => 5

/-- The STATUS register as a read assembles it: bits 7:5 and 31:12 are 0 (10_state.md R25, R32). -/
def statusWord (f : Status) : Word :=
  0#20 ++ f.errCode ++ 0#3 ++ BitVec.ofBool f.resultValid ++ BitVec.ofBool f.overrun ++
    BitVec.ofBool f.keyInvalid ++ BitVec.ofBool f.done ++ BitVec.ofBool f.busy

/-- A write of `v` to STATUS with BUSY = 0: bit 1 clears DONE, bit 3 clears OVERRUN, all else is ignored
(20_memory.md R65). -/
def statusWrite (v : Word) (f : Status) : Status :=
  { f with done := f.done && !v.getLsbD 1, overrun := f.overrun && !v.getLsbD 3 }

/-- Acceptance of a command (60_exceptions.md R202). -/
def statusAccept (f : Status) : Status := { f with busy := true, done := false }

/-- Completion of a command with an outcome (60_exceptions.md R203). -/
def statusComplete (e : ErrCode) (f : Status) : Status :=
  { f with errCode := errCodeValue e, busy := false, done := true }

end Sys2Proof.Machine
end

