-- ==== Sys2Proof/Machine/Ops.lean ====
section
/-! DEFINITION. The named operations shared by the commands, the bus and the schedule. -/

namespace Sys2Proof.Machine

/-- The canonical form: addresses strictly rising, and no entry equal to what an unlisted address reads as. -/
abbrev Memory.wf (m : Memory) : Prop :=
  m.Pairwise (fun p q => p.1 < q.1) ∧ ∀ p ∈ m, p.2 ≠ 0

/-- The byte at an address; an unlisted one reads 0x00, the reset content of KEY (10_state.md R45). -/
def Memory.read : Memory → Nat → Byte
  | [], _ => 0
  | (x, v) :: m, a => if x = a then v else Memory.read m a

/-- `m` with the cell `(a, b)` in front, which a zero byte does not take (the canonical form). -/
def Memory.cell (a : Nat) (b : Byte) (m : Memory) : Memory := if b = 0 then m else (a, b) :: m

/-- Store a byte, keeping the canonical form. -/
def Memory.write : Memory → Nat → Byte → Memory
  | [], a, b => Memory.cell a b []
  | (x, v) :: m, a, b =>
    if x < a then (x, v) :: Memory.write m a b
    else if x = a then Memory.cell a b m
    else Memory.cell a b ((x, v) :: m)

/-- Every byte 0x00. -/
def Memory.zeroed : Memory := []

/-- The key buffer and the decoder's bit buffer zeroed, and KEY_INVALID set to `b`: the common part of R107 and R108. -/
def zeroKey (b : Bool) (s : State) : State :=
  { s with
    key := Memory.zeroed, keyLen := 0, bitBuf := 0, bitCnt := 0, status := { s.status with keyInvalid := b } }

/-- `poison_key()` (41_base32.md R107). -/
def poisonKey (s : State) : State := zeroKey true s

/-- `end_key()` (41_base32.md R108). -/
def endKey (s : State) : State := zeroKey false s

/-- Completion with an outcome: ERRCODE, BUSY and DONE; PENDING keeps its value (60_exceptions.md R203). -/
def complete (e : ErrCode) (s : State) : State := { s with status := statusComplete e s.status }

/-- `raise E(code)`: the command ends here with its outcome (00_scope.md R12). The block has no trap, so this is the
one shared operation that stands for one: no state is saved, no mode changes, nothing is redirected, and there is no
return beside it (60_exceptions.md R206, R207). -/
def raise (e : ErrCode) (s : State) : Host.Outcome State Fault Refusal := .next (complete e s)

/-- Acceptance of the command word `w`: PENDING, BUSY and DONE; nothing about `w` is checked (60_exceptions.md R202). -/
def accept (w : Word) (s : State) : State := { s with pending := w, status := statusAccept s.status }

/-- The HOST's reset: every state element takes its reset value, and PARAM keeps KEY_MAX_BYTES
(70_reset_and_hazards.md R230, R231). What the HOST still has to issue, the schedule and the values it has read are the
HOST's and stay (log 19). -/
def applyReset (s : State) : State :=
  { State.resetWith s.config with host := s.host, turns := s.turns, reads := s.reads }

/-- The agent that takes the next step: the one the schedule names; when the schedule is used up, the ENGINE while a
command is pending, else the HOST (00_scope.md R15, 70_reset_and_hazards.md R241; log 1). Before the first reset BUSY
is unknown and not consulted (70_reset_and_hazards.md R233). -/
def nextAgent (s : State) : Agent :=
  match s.turns with
  | a :: _ => a
  | [] => if s.wasReset && s.status.busy then .engine else .host

/-- The schedule moves on (log 1). -/
def popTurn (s : State) : State := { s with turns := s.turns.tail }

end Sys2Proof.Machine
end

