-- ==== Sys2Proof/Machine/Operands.lean ====
section
/-! DEFINITION. The operands the ENGINE reads from registers when it executes a command (30_encoding.md R89), and the
counter it writes. -/

namespace Sys2Proof.Machine

/-- `TIME = {TIME_HI, TIME_LO}` (10_state.md R33). -/
def timeInput (s : State) : DWord := s.timeHi ++ s.timeLo

/-- `CTR = {CTR_HI, CTR_LO}` (10_state.md R34). -/
def counter (s : State) : DWord := s.ctrHi ++ s.ctrLo

/-- `{CTR_HI, CTR_LO} <- c` (43_generate.md R178). -/
def setCounter (c : DWord) (s : State) : State :=
  { s with ctrHi := c.extractLsb' 32 32, ctrLo := c.extractLsb' 0 32 }

/-- `KEY[0 .. KEY_LEN-1]` (10_state.md R45). -/
def keyBytes (s : State) : List Byte := (List.range s.keyLen.toNat).map (Memory.read s.key)

end Sys2Proof.Machine
end

