-- ==== Sys2Proof/Machine/Base32.lean ====
section
/-! DEFINITION. The Base32 decoder unit: KEY_CLEAR and B32_PUSH (41_base32.md). -/

namespace Sys2Proof.Machine

/-- `fold(c)`: `a` to `z` become `A` to `Z`, every other code is unchanged (41_base32.md R101, R102). -/
def foldCase (c : Byte) : Byte := if 0x61 ≤ c ∧ c ≤ 0x7A then c - 0x20 else c

/-- `b32val(c)`, none for a code outside the alphabet (41_base32.md R102). -/
def b32val (c : Byte) : Option (BitVec 5) :=
  let u := foldCase c
  if 0x41 ≤ u ∧ u ≤ 0x5A then some ((u - 0x41).setWidth 5)
  else if 0x32 ≤ u ∧ u ≤ 0x37 then some ((u - 0x32 + 26).setWidth 5)
  else none

/-- The bit buffer with five more bits: `(BITBUF << 5) | v`, at most 12 bits (41_base32.md R106). -/
def pushedBits (s : State) (v : BitVec 5) : Nat := s.bitBuf.toNat <<< 5 ||| v.toNat

/-- `cnt <- BITCNT + 5` (41_base32.md R106). -/
def pushedCount (s : State) : Nat := s.bitCnt.toNat + 5

/-- `BITBUF <- buf & ((1 << cnt) - 1)` and `BITCNT <- cnt` (41_base32.md R106). -/
def keepBits (buf cnt : Nat) (s : State) : State :=
  { s with bitBuf := BitVec.ofNat 7 (buf &&& ((1 <<< cnt) - 1)), bitCnt := BitVec.ofNat 4 cnt }

/-- `KEY[KEY_LEN] <- b` and `KEY_LEN <- KEY_LEN + 1` (41_base32.md R106). -/
def appendKeyByte (b : Byte) (s : State) : State :=
  { s with key := Memory.write s.key s.keyLen.toNat b, keyLen := s.keyLen + 1 }

/-- The byte completed by a push that leaves `cnt` bits: `(buf >> cnt) & 0xFF` (41_base32.md R106). -/
def completedByte (buf cnt : Nat) : Byte := BitVec.ofNat 8 (buf >>> cnt &&& 0xFF)

/-- KEY_CLEAR (41_base32.md R105). -/
def execKeyClear (s : State) : Host.Outcome State Fault Refusal := .next (complete .ok (endKey s))

/-- B32_PUSH with an accepted character of value `v` (41_base32.md R106, from the bit buffer on). -/
def pushValue (v : BitVec 5) (s : State) : Host.Outcome State Fault Refusal :=
  let buf := pushedBits s v
  let cnt := pushedCount s
  if 8 ≤ cnt then
    if s.keyLen.toNat = s.config.keyMaxBytes then raise .keyOverflow (poisonKey s)
    else .next (complete .ok (keepBits buf (cnt - 8) (appendKeyByte (completedByte buf (cnt - 8)) s)))
  else .next (complete .ok (keepBits buf cnt s))

/-- B32_PUSH c (41_base32.md R106). -/
def execB32Push (c : Byte) (s : State) : Host.Outcome State Fault Refusal :=
  if s.status.keyInvalid then raise .keyPoisoned s
  else match b32val c with
    | none => raise .invalidInput (poisonKey s)
    | some v => pushValue v s

end Sys2Proof.Machine
end

