-- ==== Sys2Proof/Machine/Bytes.lean ====
section
/-! DEFINITION. Byte sequences and byte orders (00_scope.md R10, R13). -/

namespace Sys2Proof.Machine

/-- `S[i]`, byte `i` of a sequence. Every use has `i` inside the sequence (log 20). -/
def byteAt (S : List Byte) (i : Nat) : Byte := S.getD i 0

/-- `BE32(S[i..i+3])` (00_scope.md R13). -/
def be32 (S : List Byte) (i : Nat) : Word :=
  byteAt S i ++ byteAt S (i + 1) ++ byteAt S (i + 2) ++ byteAt S (i + 3)

/-- The four bytes of a word, most significant first: BE32⁻¹ (42_hmac_sha1.md R141). -/
def wordBytes (w : Word) : List Byte :=
  [w.extractLsb' 24 8, w.extractLsb' 16 8, w.extractLsb' 8 8, w.extractLsb' 0 8]

/-- `BE64(c)`, the eight bytes of `c`, most significant first (00_scope.md R13). -/
def be64 (c : DWord) : List Byte :=
  (List.range 8).map fun i => c.extractLsb' (56 - 8 * i) 8

end Sys2Proof.Machine
end

