-- ==== Sys2Proof/Machine/Sha1.lean ====
section
/-! DEFINITION. SHA-1 as 42_hmac_sha1.md R133 to R141 transcribe it (the spec marks those rules as general knowledge;
log 11). -/

namespace Sys2Proof.Machine

/-- The five 32-bit words of the running hash, or the working variables a, b, c, d, e (42_hmac_sha1.md R139). -/
structure HashWords where
  a : Word
  b : Word
  c : Word
  d : Word
  e : Word
  deriving DecidableEq, Repr

/-- `z`, the number of zero bytes of the padding of a message of `len` bytes (42_hmac_sha1.md R133). -/
def padZeros (len : Nat) : Nat := (119 - len % 64) % 64

/-- The padded message (42_hmac_sha1.md R133). -/
def pad (M : List Byte) : List Byte :=
  M ++ [0x80] ++ List.replicate (padZeros M.length) 0x00 ++ be64 (BitVec.ofNat 64 (8 * M.length))

/-- Block `i` of a padded message, counted from 0 (42_hmac_sha1.md R134). -/
def block (P : List Byte) (i : Nat) : List Byte := (P.drop (64 * i)).take 64

/-- The sixteen words of a block, newest (t = 15) first (42_hmac_sha1.md R134). -/
def blockWords (B : List Byte) : List Word :=
  (List.range 16).reverse.map fun t => be32 B (4 * t)

/-- `W_t` from the words before it, newest first (42_hmac_sha1.md R136). -/
def nextScheduleWord (ws : List Word) : Word :=
  (ws.getD 2 0 ^^^ ws.getD 7 0 ^^^ ws.getD 13 0 ^^^ ws.getD 15 0).rotateLeft 1

/-- `n` more words of the schedule, on a list held newest first (42_hmac_sha1.md R136). -/
def extendSchedule : Nat → List Word → List Word
  | 0, ws => ws
  | n + 1, ws => extendSchedule n (nextScheduleWord ws :: ws)

/-- The message schedule W_0 .. W_79 of a block (42_hmac_sha1.md R136). -/
def schedule (B : List Byte) : List Word := (extendSchedule 64 (blockWords B)).reverse

/-- `f_t` (42_hmac_sha1.md R137). -/
def roundFunction (t : Nat) (x y z : Word) : Word :=
  if t < 20 then (x &&& y) ^^^ (~~~x &&& z)
  else if t < 40 then x ^^^ y ^^^ z
  else if t < 60 then (x &&& y) ^^^ (x &&& z) ^^^ (y &&& z)
  else x ^^^ y ^^^ z

/-- `K_t` (42_hmac_sha1.md R138). -/
def roundConstant (t : Nat) : Word :=
  if t < 20 then 0x5A827999
  else if t < 40 then 0x6ED9EBA1
  else if t < 60 then 0x8F1BBCDC
  else 0xCA62C1D6

/-- Round `t` of the compression, with the schedule word `w` (42_hmac_sha1.md R139). -/
def sha1Round (t : Nat) (w : Word) (h : HashWords) : HashWords where
  a := h.a.rotateLeft 5 + roundFunction t h.b h.c h.d + h.e + roundConstant t + w
  b := h.a
  c := h.b.rotateLeft 30
  d := h.c
  e := h.d

/-- The rounds from round `t` on, one per schedule word (42_hmac_sha1.md R139). -/
def sha1Rounds : Nat → List Word → HashWords → HashWords
  | _, [], h => h
  | t, w :: ws, h => sha1Rounds (t + 1) ws (sha1Round t w h)

/-- Word by word addition modulo 2^32 (42_hmac_sha1.md R140). -/
def addHash (x y : HashWords) : HashWords where
  a := x.a + y.a
  b := x.b + y.b
  c := x.c + y.c
  d := x.d + y.d
  e := x.e + y.e

/-- The running hash after a block (42_hmac_sha1.md R139, R140). -/
def compress (h : HashWords) (B : List Byte) : HashWords :=
  addHash (sha1Rounds 0 (schedule B) h) h

/-- The initial hash value (42_hmac_sha1.md R135). -/
def initialHash : HashWords where
  a := 0x67452301
  b := 0xEFCDAB89
  c := 0x98BADCFE
  d := 0x10325476
  e := 0xC3D2E1F0

/-- The twenty bytes of a hash, each word most significant byte first (42_hmac_sha1.md R141). -/
def digestBytes (h : HashWords) : List Byte :=
  wordBytes h.a ++ wordBytes h.b ++ wordBytes h.c ++ wordBytes h.d ++ wordBytes h.e

/-- The blocks of a padded message, in order (42_hmac_sha1.md R134). -/
def blocks (P : List Byte) : List (List Byte) := (List.range (P.length / 64)).map (block P)

/-- `SHA1(M)` (42_hmac_sha1.md R133 to R141). -/
def sha1 (M : List Byte) : List Byte := digestBytes ((blocks (pad M)).foldl compress initialHash)

end Sys2Proof.Machine
end

