-- ==== Sys2Proof/Machine/Hmac.lean ====
section
/-! DEFINITION. HMAC-SHA1 as 42_hmac_sha1.md R131 transcribes it (general knowledge of the spec; log 11). -/

namespace Sys2Proof.Machine

/-- `K0`: a key longer than 64 bytes is hashed first, and the rest of 64 bytes is zero (42_hmac_sha1.md R131). -/
def hmacKeyBlock (K : List Byte) : List Byte :=
  let K' := if 64 < K.length then sha1 K else K
  K' ++ List.replicate (64 - K'.length) 0x00

/-- A block with every byte XORed with the pad byte (42_hmac_sha1.md R131). -/
def xorPad (p : Byte) (K0 : List Byte) : List Byte := K0.map (· ^^^ p)

/-- `HMAC_SHA1(K, m)` (42_hmac_sha1.md R131). -/
def hmacSha1 (K m : List Byte) : List Byte :=
  sha1 (xorPad 0x5C (hmacKeyBlock K) ++ sha1 (xorPad 0x36 (hmacKeyBlock K) ++ m))

end Sys2Proof.Machine
end

