-- ==== Sys2Proof/Machine/Truncation.lean ====
section
/-! DEFINITION. The dynamic truncation unit (43_generate.md R172 to R177) and the time arithmetic (R170, R171). -/

namespace Sys2Proof.Machine

/-- `counter = t div 30000` (43_generate.md R170). -/
def timeCounter (t : DWord) : DWord := BitVec.ofNat 64 (t.toNat / 30000)

/-- `remainingSeconds = 30 - ((t div 1000) mod 30)` (43_generate.md R171). -/
def remainingSeconds (t : DWord) : BitVec 5 := BitVec.ofNat 5 (30 - t.toNat / 1000 % 30)

/-- `offset = hash[19] & 0x0F` (43_generate.md R172). -/
def truncationOffset (hash : List Byte) : BitVec 4 := (byteAt hash 19 &&& 0x0F).setWidth 4

/-- `raw = BE32(hash[offset..offset+3])` (43_generate.md R173). -/
def truncationRaw (hash : List Byte) : Word := be32 hash (truncationOffset hash).toNat

/-- `truncated = raw & 0x7FFFFFFF`, 31 bits (43_generate.md R174). -/
def truncatedValue (hash : List Byte) : BitVec 31 := (truncationRaw hash &&& 0x7FFFFFFF).setWidth 31

/-- `code_value = truncated mod 1000000` (43_generate.md R175). -/
def codeValue (hash : List Byte) : Nat := (truncatedValue hash).toNat % 1000000

/-- `d_k = 0x30 + ((code_value div 10^(5-k)) mod 10)` (43_generate.md R176). -/
def codeDigit (cv k : Nat) : Byte := BitVec.ofNat 8 (0x30 + cv / 10 ^ (5 - k) % 10)

/-- `write_results(hash)` (43_generate.md R177); REMAIN is not its concern. -/
def writeResults (hash : List Byte) (r : Results) : Results :=
  let cv := codeValue hash
  { r with
    hash0 := be32 hash 0
    hash1 := be32 hash 4
    hash2 := be32 hash 8
    hash3 := be32 hash 12
    hash4 := be32 hash 16
    offset := truncationOffset hash
    trunc := truncatedValue hash
    code := BitVec.ofNat 20 cv
    codeStr0 := codeDigit cv 0 ++ codeDigit cv 1 ++ codeDigit cv 2 ++ codeDigit cv 3
    codeStr1 := codeDigit cv 4 ++ codeDigit cv 5 }

end Sys2Proof.Machine
end

