-- ==== Sys2Proof/Machine/Generate.lean ====
section
/-! DEFINITION. TOTP_GEN and HOTP_GEN (43_generate.md R178, R179). -/

namespace Sys2Proof.Machine

/-- `RESULT_VALID <- b` (10_state.md R30). -/
def setResultValid (b : Bool) (s : State) : State := { s with status := { s.status with resultValid := b } }

/-- A generate command that fails: RESULT_VALID <- 0, the key lifetime ends, the outcome is raised; the result
registers and CTR keep their values (43_generate.md R178, R179). -/
def failGenerate (e : ErrCode) (s : State) : Host.Outcome State Fault Refusal :=
  raise e (endKey (setResultValid false s))

/-- The digest of the current key over a counter (42_hmac_sha1.md R144). -/
def keyedDigest (c : DWord) (s : State) : List Byte := hmacSha1 (keyBytes s) (be64 c)

/-- The result registers of a code for the counter `c`, with `remain` in REMAIN (43_generate.md R177 to R179). -/
def generateResults (c : DWord) (remain : BitVec 5) (s : State) : State :=
  { s with results := { writeResults (keyedDigest c s) s.results with remain := remain } }

/-- The end of a generate command that succeeds: RESULT_VALID <- 1, the key lifetime ends, ERRCODE 0. -/
def succeedGenerate (s : State) : Host.Outcome State Fault Refusal :=
  .next (complete .ok (endKey (setResultValid true s)))

/-- The checks of both generate commands, in their order, and then the command's own effect on the registers
(60_exceptions.md R204). -/
def generateChecked (effect : State → State) (s : State) : Host.Outcome State Fault Refusal :=
  if s.status.keyInvalid then failGenerate .keyPoisoned s
  else if s.keyLen = 0 then failGenerate .crypto s
  else succeedGenerate (effect s)

/-- The registers TOTP_GEN writes: the results for the counter of TIME, that counter into CTR, and REMAIN
(43_generate.md R178). -/
def totpEffect (s : State) : State :=
  setCounter (timeCounter (timeInput s))
    (generateResults (timeCounter (timeInput s)) (remainingSeconds (timeInput s)) s)

/-- The registers HOTP_GEN writes: the results for the counter in CTR, and REMAIN <- 0 (43_generate.md R179). -/
def hotpEffect (s : State) : State := generateResults (counter s) 0 s

/-- TOTP_GEN (43_generate.md R178). -/
def execTotpGen (s : State) : Host.Outcome State Fault Refusal := generateChecked totpEffect s

/-- HOTP_GEN (43_generate.md R179). -/
def execHotpGen (s : State) : Host.Outcome State Fault Refusal := generateChecked hotpEffect s

end Sys2Proof.Machine
end

