-- ==== Sys2Proof/Machine/Dispatch.lean ====
section
/-! DEFINITION. One arm per command. -/

namespace Sys2Proof.Machine

def exec (i : Instr) (s : State) : Host.Outcome State Fault Refusal :=
  match i with
  | .keyClear => Sys2Proof.Machine.execKeyClear s
  | .b32Push c => Sys2Proof.Machine.execB32Push c s
  | .totpGen => Sys2Proof.Machine.execTotpGen s
  | .hotpGen => Sys2Proof.Machine.execHotpGen s

end Sys2Proof.Machine
end

