-- ==== Sys2Proof/Machine/Engine.lean ====
section
/-! DEFINITION. The ENGINE's one kind of step (60_exceptions.md R203). -/

namespace Sys2Proof.Machine

/-- A word that is no command completes with ERRCODE 5 and changes nothing else (30_encoding.md R86). It has no row in
the opcode table and so no arm of `exec` (log 18). -/
def execIllegal (s : State) : Host.Outcome State Fault Refusal := raise .illegalCommand s

/-- The command latched in PENDING, executed (60_exceptions.md R203). -/
def execPending (s : State) : Host.Outcome State Fault Refusal :=
  match decode s.pending with
  | .ok i => exec i s
  | .error _ => execIllegal s

/-- The ENGINE's turn: refused before the first reset (70_reset_and_hazards.md R233), the pending command while
BUSY = 1, and no step at all otherwise, since it is not enabled then (60_exceptions.md R203; log 2). -/
def engineStep (s : State) : Host.Outcome State Fault Refusal :=
  if !s.wasReset then .refused .beforeFirstReset
  else if s.status.busy then execPending s
  else .next s

end Sys2Proof.Machine
end

