-- ==== Sys2Proof/Machine/Bus.lean ====
section
/-! DEFINITION. The register window: the register map (10_state.md R23), which accesses are admitted (20_memory.md R62),
what a read returns (R63) and what a write does (R64, R65). -/

namespace Sys2Proof.Machine

/-- The registers of 10_state.md R23. -/
inductive Reg where
  | cmd | status | timeLo | timeHi | ctrLo | ctrHi | keyLen | b32State
  | hash0 | hash1 | hash2 | hash3 | hash4
  | trunc | offset | code | codeStr0 | codeStr1 | remain | param
  deriving DecidableEq, Repr

/-- The register map in offset order; offsets 0x50 to 0xFC are reserved (10_state.md R23, R44). -/
def registerMap : List (Nat × Reg) :=
  [ (0x00, .cmd), (0x04, .status), (0x08, .timeLo), (0x0C, .timeHi), (0x10, .ctrLo), (0x14, .ctrHi),
    (0x18, .keyLen), (0x1C, .b32State), (0x20, .hash0), (0x24, .hash1), (0x28, .hash2), (0x2C, .hash3),
    (0x30, .hash4), (0x34, .trunc), (0x38, .offset), (0x3C, .code), (0x40, .codeStr0), (0x44, .codeStr1),
    (0x48, .remain), (0x4C, .param) ]

/-- The register at an offset; none at a reserved one (10_state.md R23, R44). -/
def regAt (off : Nat) : Option Reg := registerMap.lookup off

/-- The value of a register, assembled from its fields; bits no rule names read 0 (20_memory.md R63, 10_state.md R24 to
R43). -/
def readReg (s : State) : Reg → Word
  | .cmd => 0
  | .status => statusWord s.status
  | .timeLo => s.timeLo
  | .timeHi => s.timeHi
  | .ctrLo => s.ctrLo
  | .ctrHi => s.ctrHi
  | .keyLen => s.keyLen.setWidth 32
  | .b32State => s.bitCnt.setWidth 32
  | .hash0 => s.results.hash0
  | .hash1 => s.results.hash1
  | .hash2 => s.results.hash2
  | .hash3 => s.results.hash3
  | .hash4 => s.results.hash4
  | .trunc => s.results.trunc.setWidth 32
  | .offset => s.results.offset.setWidth 32
  | .code => s.results.code.setWidth 32
  | .codeStr0 => s.results.codeStr0
  | .codeStr1 => s.results.codeStr1 ++ 0#16
  | .remain => s.results.remain.setWidth 32
  | .param => (BitVec.ofNat 16 s.config.keyMaxBytes).setWidth 32

/-- The effect of a write to a register with BUSY = 0 (20_memory.md R65). -/
def writeReg (v : Word) (s : State) : Reg → State
  | .cmd => accept v s
  | .status => { s with status := statusWrite v s.status }
  | .timeLo => { s with timeLo := v }
  | .timeHi => { s with timeHi := v }
  | .ctrLo => { s with ctrLo := v }
  | .ctrHi => { s with ctrHi := v }
  | .keyLen | .b32State | .hash0 | .hash1 | .hash2 | .hash3 | .hash4 | .trunc | .offset | .code | .codeStr0
  | .codeStr1 | .remain | .param => s

/-- What a read at an offset returns; a reserved offset reads 0 (20_memory.md R63, 10_state.md R44). -/
def readOffset (s : State) (off : Nat) : Word :=
  match regAt off with
  | some r => readReg s r
  | none => 0

/-- What a write at an offset does: dropped with OVERRUN set while BUSY = 1, whatever the offset (20_memory.md R64);
else by register, and ignored at a reserved offset (20_memory.md R65, 10_state.md R44). -/
def writeOffset (s : State) (off : Nat) (v : Word) : State :=
  if s.status.busy then { s with status := { s.status with overrun := true } }
  else match regAt off with
    | some r => writeReg v s r
    | none => s

/-- The offset of an admitted access: 4 bytes wide, inside the 256-byte window at BASE, at a multiple of 4
(20_memory.md R62; log 9). -/
def admittedOffset (c : Config) (addr size : Nat) : Except Refusal Nat :=
  if size ≠ 4 then .error .busWidth
  else if addr < c.base ∨ c.base + 0x100 ≤ addr then .error .busWindow
  else if (addr - c.base) % 4 ≠ 0 then .error .busAlignment
  else .ok (addr - c.base)

/-- The offset a HOST access reaches; none is given a meaning before the first reset (70_reset_and_hazards.md R233). -/
def busOffset (s : State) (addr size : Nat) : Except Refusal Nat :=
  if !s.wasReset then .error .beforeFirstReset else admittedOffset s.config addr size

/-- `MemRead(addr, size)` (20_memory.md R63). -/
def busRead (s : State) (addr size : Nat) : Except Refusal Word :=
  (busOffset s addr size).map (readOffset s)

/-- `MemWrite(addr, size, v)` (20_memory.md R64, R65). -/
def busWrite (s : State) (addr size : Nat) (v : Word) : Except Refusal State :=
  (busOffset s addr size).map fun off => writeOffset s off v

end Sys2Proof.Machine
end

