-- ==== Sys2Proof/Machine/HostSide.lean ====
section
/-! DEFINITION. The HOST's side: one step of it, and the program notation of 30_encoding.md R91 to R93. -/

namespace Sys2Proof.Machine

/-- The offset of STATUS (10_state.md R23), which WAIT polls. -/
def statusOffset : Nat := 0x04

/-- One HOST operation, already taken from the list. A read's value goes to `reads`; WAIT reads STATUS once and stays
the next operation while bit 0 is 1 (30_encoding.md R92; log 3). -/
def hostOp (op : HostOp) (s : State) : Host.Outcome State Fault Refusal :=
  match op with
  | .read addr size =>
    match busRead s addr size with
    | .ok v => .next { s with reads := v :: s.reads }
    | .error r => .refused r
  | .write addr size v =>
    match busWrite s addr size v with
    | .ok t => .next t
    | .error r => .refused r
  | .wait =>
    match busRead s (s.config.base + statusOffset) 4 with
    | .ok v => .next (if v.getLsbD 0 then { s with host := .wait :: s.host } else s)
    | .error r => .refused r
  | .reset => .next (applyReset s)

/-- The HOST's turn: its next operation, or no step when it has none (log 2). -/
def hostStep (s : State) : Host.Outcome State Fault Refusal :=
  match s.host with
  | [] => .next s
  | op :: ops => hostOp op { s with host := ops }

/-- `RD off` (30_encoding.md R92). -/
def rd (c : Config) (off : Nat) : HostOp := .read (c.base + off) 4

/-- `WR off, v` (30_encoding.md R92). -/
def wr (c : Config) (off : Nat) (v : Word) : HostOp := .write (c.base + off) 4 v

/-- `DO <word>` (30_encoding.md R93). -/
def doWord (c : Config) (w : Word) : List HostOp := [wr c 0x00 w, .wait]

/-- `DO <command>` (30_encoding.md R93). -/
def doCommand (c : Config) (i : Instr) : List HostOp := doWord c (encode i)

/-- `PUSH_SECRET "s"` (30_encoding.md R93). -/
def pushSecret (c : Config) (secret : List Byte) : List HostOp :=
  secret.flatMap fun ch => doCommand c (.b32Push ch)

/-- `SET_TIME t` (30_encoding.md R93). -/
def setTime (c : Config) (t : DWord) : List HostOp :=
  [wr c 0x08 (t.extractLsb' 0 32), wr c 0x0C (t.extractLsb' 32 32)]

/-- `SET_CTR n` (30_encoding.md R93). -/
def setCtr (c : Config) (n : DWord) : List HostOp :=
  [wr c 0x10 (n.extractLsb' 0 32), wr c 0x14 (n.extractLsb' 32 32)]

/-- `TOTP t` (30_encoding.md R93). -/
def totp (c : Config) (t : DWord) : List HostOp := setTime c t ++ doCommand c .totpGen

/-- `HOTP n` (30_encoding.md R93). -/
def hotp (c : Config) (n : DWord) : List HostOp := setCtr c n ++ doCommand c .hotpGen

/-- `ACK` (30_encoding.md R93). -/
def ack (c : Config) : List HostOp := [wr c 0x04 0x0000000A]

/-- The HOST's minimum sequence for one code (70_reset_and_hazards.md R234); what the reads return is in `reads`. -/
def minimumSequence (c : Config) (secret : List Byte) (t : DWord) : List HostOp :=
  [.reset] ++ pushSecret c secret ++ [rd c 0x04] ++ totp c t ++ [rd c 0x04, rd c 0x40, rd c 0x44, rd c 0x48]

/-- The value of a numeral's digit in a base (30_encoding.md R91; log 14). -/
def digitValue (base : Nat) (ch : Char) : Option Nat :=
  let n := ch.toNat
  let v :=
    if 0x30 ≤ n ∧ n ≤ 0x39 then n - 0x30
    else if 0x41 ≤ n ∧ n ≤ 0x46 then n - 0x41 + 10
    else if 0x61 ≤ n ∧ n ≤ 0x66 then n - 0x61 + 10
    else base
  if v < base then some v else none

/-- The value of a digit string, continued from `acc`. -/
def digitsValue (base : Nat) : Nat → List Char → Option Nat
  | acc, [] => some acc
  | acc, ch :: cs =>
    match digitValue base ch with
    | some v => digitsValue base (acc * base + v) cs
    | none => none

/-- A numeral: `0x` and hexadecimal digits, or decimal digits (30_encoding.md R91; log 14). -/
def numeralValue : List Char → Option Nat
  | [] => none
  | ['0', 'x'] => none
  | '0' :: 'x' :: cs => digitsValue 16 0 cs
  | cs => digitsValue 10 0 cs

/-- The operand of B32_PUSH: a quoted ASCII character, or a numeral of at most 8 bits (30_encoding.md R91; log 14). -/
def charOperand : List Char → Option Byte
  | ['\'', ch, '\''] => if ch.toNat < 128 then some (BitVec.ofNat 8 ch.toNat) else none
  | cs =>
    match numeralValue cs with
    | some n => if n < 256 then some (BitVec.ofNat 8 n) else none
    | none => none

/-- The command a line of assembler text names (30_encoding.md R91). -/
def parseCommand : List Char → Option Instr
  | ['K', 'E', 'Y', '_', 'C', 'L', 'E', 'A', 'R'] => some .keyClear
  | ['T', 'O', 'T', 'P', '_', 'G', 'E', 'N'] => some .totpGen
  | ['H', 'O', 'T', 'P', '_', 'G', 'E', 'N'] => some .hotpGen
  | 'B' :: '3' :: '2' :: '_' :: 'P' :: 'U' :: 'S' :: 'H' :: ' ' :: cs => (charOperand cs).map .b32Push
  | _ => none

/-- The assembled word of a line (30_encoding.md R91). -/
def assemble (line : List Char) : Option Word := (parseCommand line).map encode

end Sys2Proof.Machine
end

