-- ==== Sys2Proof/Machine/Step.lean ====
section
/-! DEFINITION. One step of the block and its HOST (00_scope.md R15, 20_memory.md R67). -/

namespace Sys2Proof.Machine

/-- One step: the agent whose turn it is takes it (20_memory.md R67; log 1). -/
def step (s : State) : Host.Outcome State Fault Refusal :=
  match nextAgent s with
  | .engine => engineStep (popTurn s)
  | .host => hostStep (popTurn s)

/-- `s` with the word `w` accepted as the pending command and the ENGINE next to move, so that the next step executes
it. The block fetches nothing (10_state.md R21): this stands for the HOST's accepted write of `w` to CMD (log 10). -/
def State.withFetchWord (s : State) (nbits w : Nat) : State :=
  { accept (BitVec.ofNat 32 (w % 2 ^ nbits)) s with
    wasReset := true
    turns := match s.turns with
      | [] => []
      | ts => .engine :: ts }

end Sys2Proof.Machine
end

