-- ==== Sys2Proof/Machine/Reference.lean ====
section
/-! DEFINITION. The references the decoder is compared with: the source's own decoding algorithm (41_base32.md R104) and
the RFC 4648 encoder without padding (41_base32.md R113; general knowledge of the spec, log 11). -/

namespace Sys2Proof.Machine

/-- The source's decoder from a bit buffer and a held-bit count on: the buffer is an unbounded integer that keeps every
bit, and a character outside the alphabet fails the whole decode (41_base32.md R104). -/
def sourceDecodeFrom : Nat → Nat → List Byte → Option (List Byte)
  | _, _, [] => some []
  | buf, cnt, c :: cs =>
    match b32val c with
    | none => none
    | some v =>
      let buf' := buf <<< 5 ||| v.toNat
      if 8 ≤ cnt + 5 then
        (sourceDecodeFrom buf' (cnt + 5 - 8) cs).map (BitVec.ofNat 8 (buf' >>> (cnt + 5 - 8) &&& 0xFF) :: ·)
      else sourceDecodeFrom buf' (cnt + 5) cs

/-- `decode(s)` of the source (41_base32.md R104). -/
def sourceDecode (secret : List Byte) : Option (List Byte) := sourceDecodeFrom 0 0 secret

/-- The alphabet's character of a 5-bit value (41_base32.md R100). -/
def alphabetChar (v : Nat) : Byte := if v < 26 then BitVec.ofNat 8 (0x41 + v) else BitVec.ofNat 8 (0x32 + (v - 26))

/-- The bytes read as one big-endian number. -/
def bytesValue (b : List Byte) : Nat := b.foldl (fun n x => n * 256 + x.toNat) 0

/-- The number of characters of the encoding, ceil(8·len / 5) (41_base32.md R113). -/
def encodedLength (len : Nat) : Nat := (8 * len + 4) / 5

/-- The RFC 4648 encoding without padding: the bits of `b`, most significant first, with zero bits up to a multiple
of five, cut into fives (41_base32.md R113). -/
def base32Encode (b : List Byte) : List Byte :=
  let n := encodedLength b.length
  let bits := bytesValue b <<< (5 * n - 8 * b.length)
  (List.range n).map fun k => alphabetChar (bits >>> (5 * (n - 1 - k)) &&& 31)

end Sys2Proof.Machine
end

