-- ==== Sys2Proof/Safety.lean ====
section
/-! DEFINITION. What counts as a legal state and as the runs claims speak of. -/

namespace Sys2Proof.Machine

/-- The invariants of 10_state.md R48, with the canonical form of KEY and the bound on ERRCODE of 60_exceptions.md R201
(codes 6 to 15 are never produced). TRUNC < 2^31 and OFFSET <= 15 hold by the widths of the fields. -/
structure Legal (s : State) : Prop where
  bitCnt_le : s.bitCnt.toNat ≤ 7
  bitBuf_lt : s.bitBuf.toNat < 2 ^ s.bitCnt.toNat
  keyLen_le : s.keyLen.toNat ≤ s.config.keyMaxBytes
  key_canonical : Memory.wf s.key
  key_zero : ∀ i, s.keyLen.toNat ≤ i → Memory.read s.key i = 0
  poisoned_empty : s.status.keyInvalid = true → s.keyLen = 0 ∧ s.bitCnt = 0 ∧ s.bitBuf = 0
  busy_not_done : s.status.busy = true → s.status.done = false
  code_le : s.results.code.toNat ≤ 999999
  remain_le : s.results.remain.toNat ≤ 30
  errCode_le : s.status.errCode.toNat ≤ 5

/-- The invariant of every run: the configuration is one the spec admits, and once a reset has been applied the state
is legal. Before the first reset the state is unknown (70_reset_and_hazards.md R233). -/
structure StateInv (s : State) : Prop where
  config_wf : s.config.wf
  legal : s.wasReset = true → Legal s

/-- The key buffer, the bit buffer and KEY_INVALID as a new secret finds them (41_base32.md R110). -/
structure KeyIsClear (s : State) : Prop where
  keyInvalid : s.status.keyInvalid = false
  keyLen : s.keyLen = 0
  bitCnt : s.bitCnt = 0
  bitBuf : s.bitBuf = 0
  key : s.key = Memory.zeroed

/-- `k` steps, stopping at the first refusal: `Host.Core.run` at this machine (`run_eq_core_run`). -/
def run : Nat → State → Host.Outcome State Fault Refusal
  | 0, s => .next s
  | k + 1, s =>
    match step s with
    | .next t => run k t
    | .fault f => .fault f
    | .refused r => .refused r

/-- Commands executed one after the other, as the ENGINE executes them. -/
def execAll : List Instr → State → Host.Outcome State Fault Refusal
  | [], s => .next s
  | i :: is, s =>
    match exec i s with
    | .next t => execAll is t
    | .fault f => .fault f
    | .refused r => .refused r

/-- The pushes of a secret, one command per character (30_encoding.md R93, 41_base32.md R110). -/
def pushes (secret : List Byte) : List Instr := secret.map Instr.b32Push

/-- A generate command that passes its checks (43_generate.md R178, R179). -/
structure GenerateReady (s : State) : Prop where
  keyValid : s.status.keyInvalid = false
  keyNonempty : s.keyLen ≠ 0

/-- It is the HOST's turn, a reset has been applied, and `op` is its next operation. -/
structure HostIssues (op : HostOp) (s : State) : Prop where
  wasReset : s.wasReset = true
  turn : nextAgent s = .host
  next : s.host.head? = some op

/-- A command is pending, a reset has been applied, and it is the ENGINE's turn. -/
structure EngineRuns (s : State) : Prop where
  wasReset : s.wasReset = true
  turn : nextAgent s = .engine
  busy : s.status.busy = true

/-- `s` after its turn and its next HOST operation have been taken from the lists. -/
def afterIssue (s : State) : State := { popTurn s with host := s.host.tail }

end Sys2Proof.Machine
end

