-- ==== Sys2Proof/Certificates/Slice0/Obligations.lean ====
section
/-! DEFINITION. What is to be proved of the model. Each docstring names the rule of spec/ it formalises. -/

open Sys2Proof Sys2Proof.Machine

/-! ### Encoding -/

/-- 30_encoding.md R90: the decoder, pattern by pattern; every other word is ILLEGAL. -/
def Obligations.DecodeFollowsTheWordPatterns : Prop :=
  ∀ w : Word,
    (decode w = .ok .keyClear ↔ w = 0x00000001) ∧
    (∀ c, decode w = .ok (.b32Push c) ↔ w &&& 0xFFFF00FF = 0x00000002 ∧ c = w.extractLsb' 8 8) ∧
    (decode w = .ok .totpGen ↔ w = 0x00000003) ∧
    (decode w = .ok .hotpGen ↔ w = 0x00000004) ∧
    ((∃ e, decode w = .error e) ↔
      ¬(w = 0x00000001 ∨ w &&& 0xFFFF00FF = 0x00000002 ∨ w = 0x00000003 ∨ w = 0x00000004))

/-- 30_encoding.md R84, R90: the encoder and the decoder are inverse, for every instruction and every word: each
instruction is the reading of exactly one word. -/
def Obligations.DecodeAndEncodeAgree : Prop :=
  ∀ i : Instr, i.wf = true → ∀ w : Word, decode w = .ok i ↔ w = encode i

/-- 30_encoding.md R84, R85: the legal words are those a row of the opcode map selects, one row selects each, and it
is the row of the instruction decoded. -/
def Obligations.EachLegalWordSelectsOneRow : Prop :=
  ∀ w : Word,
    (legal w = true ↔ ∃ r ∈ opcodeMap, rowSelects r w = true) ∧
    (∀ r ∈ opcodeMap, ∀ r' ∈ opcodeMap, rowSelects r w = true → rowSelects r' w = true → r = r') ∧
    (∀ r ∈ opcodeMap, rowSelects r w = true → ∃ i, decode w = .ok i ∧ i.mnemonic = r.mnemonic)

/-- 30_encoding.md R85: there are 259 legal words. -/
def Obligations.ThereAre259LegalWords : Prop :=
  ∃ l : List Word, l.Nodup ∧ l.length = 259 ∧ ∀ w, w ∈ l ↔ legal w = true

/-- 30_encoding.md R84, R86: words written out bit by bit, with what they decode to. -/
def Obligations.WordsWrittenOutDecode : Prop :=
  decode 0b00000000000000000000000000000001 = .ok .keyClear ∧
  decode 0b00000000000000000100011100000010 = .ok (.b32Push 0x47) ∧
  decode 0b00000000000000000000000000000010 = .ok (.b32Push 0x00) ∧
  decode 0b00000000000000001111111100000010 = .ok (.b32Push 0xFF) ∧
  decode 0b00000000000000000000000000000011 = .ok .totpGen ∧
  decode 0b00000000000000000000000000000100 = .ok .hotpGen ∧
  decode 0b00000000000000000000000000000000 = .error .operationReserved ∧
  decode 0b00000000000000000000000100000001 = .error .argumentNonzero ∧
  decode 0b00000000000000010000000000000011 = .error .reservedFieldNonzero

/-! ### The ENGINE's step -/

/-- 60_exceptions.md R203: when the ENGINE moves with a command pending, the step executes the decoded command, at the
state with the turn taken. -/
def Obligations.StepExecutesThePendingCommand : Prop :=
  ∀ (i : Instr) (s : State), EngineRuns s → i.wf = true → decode s.pending = .ok i → step s = exec i (popTurn s)

/-- The step after `withFetchWord` executes the instruction of the word (log 10). -/
def Obligations.StepAfterFetchWordExecutesIt : Prop :=
  ∀ (s : State) (nbits w : Nat) (i : Instr), decodeTableWord nbits w = some i →
    step (s.withFetchWord nbits w) = exec i (popTurn (s.withFetchWord nbits w))

/-- 30_encoding.md R86: an illegal word is accepted like any command, and its execution completes with ERRCODE 5 and
changes nothing but the completion fields. -/
def Obligations.IllegalWordOnlyCompletes : Prop :=
  ∀ w : Word, legal w = false →
    (∀ s : State, HostIssues (wr s.config 0x00 w) s → s.status.busy = false →
      step s = .next { afterIssue s with pending := w, status := { s.status with busy := true, done := false } }) ∧
    (∀ s : State, EngineRuns s → s.pending = w →
      step s = .next { popTurn s with status := { s.status with busy := false, done := true, errCode := 5 } })

/-- 60_exceptions.md R204, with the completion of R203: every command completes with exactly one outcome, the first
check that applies. -/
def Obligations.OutcomeIsTheFirstCheckThatApplies : Prop :=
  ∀ s : State, EngineRuns s →
    ∃ t, step s = .next t ∧ t.status.busy = false ∧ t.status.done = true ∧ t.pending = s.pending ∧
      t.status.errCode =
        if legal s.pending = false then 5
        else match decode s.pending with
          | .error _ => 5
          | .ok .keyClear => 0
          | .ok (.b32Push c) =>
            if s.status.keyInvalid = true then 3
            else if b32val c = none then 1
            else if 3 ≤ s.bitCnt.toNat ∧ s.keyLen.toNat = s.config.keyMaxBytes then 4
            else 0
          | .ok .totpGen => if s.status.keyInvalid = true then 3 else if s.keyLen = 0 then 2 else 0
          | .ok .hotpGen => if s.status.keyInvalid = true then 3 else if s.keyLen = 0 then 2 else 0

/-- 10_state.md R29, R33, R47, R49: the ENGINE's turn leaves OVERRUN, TIME, PENDING, the configuration and the HOST's
side alone, and takes only its turn from the schedule. -/
def Obligations.EngineTurnFrame : Prop :=
  ∀ s t : State, nextAgent s = .engine → step s = .next t →
    t.status.overrun = s.status.overrun ∧ t.timeLo = s.timeLo ∧ t.timeHi = s.timeHi ∧ t.pending = s.pending ∧
    t.config = s.config ∧ t.wasReset = s.wasReset ∧ t.host = s.host ∧ t.reads = s.reads ∧ t.turns = s.turns.tail

/-! ### The Base32 decoder unit -/

/-- 41_base32.md R102 (and R100, R101, R103): the value of each of the 256 codes. -/
def Obligations.CharacterValueOfEveryCode : Prop :=
  ∀ c : Byte,
    (0x41 ≤ c.toNat ∧ c.toNat ≤ 0x5A → (b32val c).map BitVec.toNat = some (c.toNat - 0x41)) ∧
    (0x61 ≤ c.toNat ∧ c.toNat ≤ 0x7A → (b32val c).map BitVec.toNat = some (c.toNat - 0x61)) ∧
    (0x32 ≤ c.toNat ∧ c.toNat ≤ 0x37 → (b32val c).map BitVec.toNat = some (c.toNat - 0x32 + 26)) ∧
    (¬(0x41 ≤ c.toNat ∧ c.toNat ≤ 0x5A) → ¬(0x61 ≤ c.toNat ∧ c.toNat ≤ 0x7A) →
      ¬(0x32 ≤ c.toNat ∧ c.toNat ≤ 0x37) → b32val c = none)

/-- 41_base32.md R105: KEY_CLEAR's encoding, its effect in every state with all it leaves alone, and that a word with
its OP and a nonzero ARG or RSVD is illegal and clears nothing. -/
def Obligations.KeyClearEndsTheKeyLifetime : Prop :=
  encode .keyClear = 0x00000001 ∧ (∀ a, Memory.read Memory.zeroed a = 0) ∧
  (∀ s : State, exec .keyClear s = .next
    { s with
      key := Memory.zeroed, keyLen := 0, bitBuf := 0, bitCnt := 0
      status := { s.status with keyInvalid := false, busy := false, done := true, errCode := 0 } }) ∧
  (∀ s : State, EngineRuns s → opField s.pending = 0x01 → argField s.pending ≠ 0 ∨ rsvdField s.pending ≠ 0 →
    ∃ t, step s = .next t ∧ t.status.errCode = 5 ∧ t.key = s.key ∧ t.keyLen = s.keyLen ∧ t.bitBuf = s.bitBuf ∧
      t.bitCnt = s.bitCnt ∧ t.status.keyInvalid = s.status.keyInvalid)

/-- 41_base32.md R106 (with the poison procedure of R107): the encoding of B32_PUSH, and its effect in every legal
state, path by path, with all it leaves alone: a poisoned key, a rejected character, a byte beyond the capacity, a
character that completes no byte (also at a full buffer), and one that completes a byte, stored at KEY[KEY_LEN]. -/
def Obligations.PushDecodesOneCharacter : Prop :=
  ∀ (c : Byte) (s : State), Legal s → s.config.wf →
    (encode (.b32Push c)).toNat = c.toNat * 0x100 + 0x02 ∧
    (s.status.keyInvalid = true → exec (.b32Push c) s = .next
      { s with status := { s.status with busy := false, done := true, errCode := 3 } }) ∧
    (s.status.keyInvalid = false → b32val c = none → exec (.b32Push c) s = .next
      { s with
        key := Memory.zeroed, keyLen := 0, bitBuf := 0, bitCnt := 0
        status := { s.status with keyInvalid := true, busy := false, done := true, errCode := 1 } }) ∧
    (s.status.keyInvalid = false → ∀ v, b32val c = some v →
      (3 ≤ s.bitCnt.toNat → s.keyLen.toNat = s.config.keyMaxBytes → exec (.b32Push c) s = .next
        { s with
          key := Memory.zeroed, keyLen := 0, bitBuf := 0, bitCnt := 0
          status := { s.status with keyInvalid := true, busy := false, done := true, errCode := 4 } }) ∧
      (s.bitCnt.toNat ≤ 2 → ∃ t, exec (.b32Push c) s = .next t ∧
        t.bitBuf.toNat = s.bitBuf.toNat * 2 ^ 5 + v.toNat ∧ t.bitCnt.toNat = s.bitCnt.toNat + 5 ∧
        t = { s with
          bitBuf := t.bitBuf, bitCnt := t.bitCnt
          status := { s.status with busy := false, done := true, errCode := 0 } }) ∧
      (3 ≤ s.bitCnt.toNat → s.keyLen.toNat ≠ s.config.keyMaxBytes → ∃ t, exec (.b32Push c) s = .next t ∧
        t.bitCnt.toNat = s.bitCnt.toNat - 3 ∧
        t.bitBuf.toNat = (s.bitBuf.toNat * 2 ^ 5 + v.toNat) % 2 ^ t.bitCnt.toNat ∧
        t.keyLen.toNat = s.keyLen.toNat + 1 ∧
        (∀ a, (Memory.read t.key a).toNat =
          if a = s.keyLen.toNat then (s.bitBuf.toNat * 2 ^ 5 + v.toNat) / 2 ^ t.bitCnt.toNat
          else (Memory.read s.key a).toNat) ∧
        t = { s with
          key := t.key, keyLen := t.keyLen, bitBuf := t.bitBuf, bitCnt := t.bitCnt
          status := { s.status with busy := false, done := true, errCode := 0 } }))

/-- 41_base32.md R110: pushing a secret from a clear key gives the source's decode of it; a secret with a rejected
character leaves a poisoned, empty key. -/
def Obligations.PushedSecretIsTheSourcesDecode : Prop :=
  ∀ (secret : List Byte) (s : State), s.config.wf → KeyIsClear s →
    (∀ bytes, sourceDecode secret = some bytes → 5 * secret.length / 8 ≤ s.config.keyMaxBytes →
      ∃ t, execAll (pushes secret) s = .next t ∧ keyBytes t = bytes ∧ t.keyLen.toNat = 5 * secret.length / 8 ∧
        t.bitCnt.toNat = 5 * secret.length % 8 ∧ t.status.keyInvalid = false) ∧
    (sourceDecode secret = none →
      ∃ t, execAll (pushes secret) s = .next t ∧ t.status.keyInvalid = true ∧ t.keyLen = 0)

/-- 41_base32.md R112: from a clear key, an accepted secret poisons the key exactly when it decodes to more than
KEY_MAX_BYTES bytes, that is, when it has more than floor((8·KEY_MAX_BYTES + 7) / 5) characters; KEY_OVERFLOW is the
outcome of the character that would complete byte KEY_MAX_BYTES + 1, and of no other. -/
def Obligations.SecretOverflowsBeyondTheCapacity : Prop :=
  ∀ (secret : List Byte) (s : State), s.config.wf → KeyIsClear s → (∀ c ∈ secret, b32val c ≠ none) →
    ∃ t, execAll (pushes secret) s = .next t ∧
      (t.status.keyInvalid = true ↔ s.config.keyMaxBytes < 5 * secret.length / 8) ∧
      (t.status.keyInvalid = false ↔ secret.length ≤ (8 * s.config.keyMaxBytes + 7) / 5) ∧
      (secret ≠ [] → (t.status.errCode = 4 ↔
        5 * secret.length / 8 = s.config.keyMaxBytes + 1 ∧ 5 * (secret.length - 1) / 8 = s.config.keyMaxBytes))

/-- 41_base32.md R113: pushing the unpadded RFC 4648 encoding of bytes that fit leaves exactly those bytes in the
key. How the encoder is written is the model's choice (log 11). -/
def Obligations.EncodedBytesAreDecodedBack : Prop :=
  ∀ (b : List Byte) (s : State), s.config.wf → KeyIsClear s → b.length ≤ s.config.keyMaxBytes →
    (base32Encode b).length = (8 * b.length + 4) / 5 ∧
    ∃ t, execAll (pushes (base32Encode b)) s = .next t ∧ keyBytes t = b ∧ t.status.keyInvalid = false ∧
      t.bitCnt.toNat < 8

/-- 10_state.md R45: a byte of KEY changes in a step only by B32_PUSH, which stores at KEY[KEY_LEN] and nowhere else,
or by being zeroed. -/
def Obligations.OnlyAPushStoresAKeyByte : Prop :=
  ∀ s t : State, Memory.wf s.key → step s = .next t → ∀ a, Memory.read t.key a ≠ Memory.read s.key a →
    Memory.read t.key a = 0 ∨
    (EngineRuns s ∧ ∃ c, decode s.pending = .ok (.b32Push c) ∧ a = s.keyLen.toNat ∧ t.keyLen = s.keyLen + 1)

/-! ### HMAC-SHA1 -/

/-- 00_scope.md R13: the two byte orders. -/
def Obligations.ByteOrdersAreBigEndian : Prop :=
  (∀ c : DWord, (be64 c).length = 8 ∧ ∀ i, i < 8 → byteAt (be64 c) i = c.extractLsb' (56 - 8 * i) 8) ∧
  (∀ (S : List Byte) (i : Nat), (be32 S i).toNat =
    (byteAt S i).toNat * 2 ^ 24 + (byteAt S (i + 1)).toNat * 2 ^ 16 + (byteAt S (i + 2)).toNat * 2 ^ 8 +
      (byteAt S (i + 3)).toNat)

/-- 42_hmac_sha1.md R133: the padded message, and that its number of zero bytes is the smallest that fits. -/
def Obligations.PaddingFillsWholeBlocks : Prop :=
  ∀ M : List Byte,
    pad M = M ++ [0x80] ++ List.replicate (padZeros M.length) 0x00 ++ be64 (BitVec.ofNat 64 (8 * M.length)) ∧
    (M.length + 1 + padZeros M.length) % 64 = 56 ∧
    (∀ z, z < padZeros M.length → (M.length + 1 + z) % 64 ≠ 56) ∧
    (pad M).length % 64 = 0

/-- 42_hmac_sha1.md R136 (with the words of R134): the message schedule of a block. -/
def Obligations.ScheduleFollowsItsRecurrence : Prop :=
  ∀ B : List Byte,
    (schedule B).length = 80 ∧
    (∀ t, t < 16 → (schedule B).getD t 0 = be32 B (4 * t)) ∧
    (∀ t, 16 ≤ t → t < 80 → (schedule B).getD t 0 =
      ((schedule B).getD (t - 3) 0 ^^^ (schedule B).getD (t - 8) 0 ^^^ (schedule B).getD (t - 14) 0 ^^^
        (schedule B).getD (t - 16) 0).rotateLeft 1)

/-- 42_hmac_sha1.md R137 to R139: the round functions f_t and the round constants K_t, each over its range of t; and
over any schedule, the working variables are the running hash before the first round, and after round `t` they come from
those before it. -/
def Obligations.RoundsAdvanceTheWorkingVariables : Prop :=
  (∀ (t : Nat) (x y z : Word),
    (t ≤ 19 → roundFunction t x y z = (x &&& y) ^^^ (~~~x &&& z)) ∧
    (20 ≤ t → t ≤ 39 → roundFunction t x y z = x ^^^ y ^^^ z) ∧
    (40 ≤ t → t ≤ 59 → roundFunction t x y z = (x &&& y) ^^^ (x &&& z) ^^^ (y &&& z)) ∧
    (60 ≤ t → t ≤ 79 → roundFunction t x y z = x ^^^ y ^^^ z)) ∧
  (∀ t : Nat,
    (t ≤ 19 → roundConstant t = 0x5A827999) ∧ (20 ≤ t → t ≤ 39 → roundConstant t = 0x6ED9EBA1) ∧
    (40 ≤ t → t ≤ 59 → roundConstant t = 0x8F1BBCDC) ∧ (60 ≤ t → t ≤ 79 → roundConstant t = 0xCA62C1D6)) ∧
  (∀ (ws : List Word) (h : HashWords), sha1Rounds 0 (ws.take 0) h = h) ∧
  ∀ (ws : List Word) (h : HashWords) (t : Nat), t < ws.length →
    let x := sha1Rounds 0 (ws.take t) h
    let y := sha1Rounds 0 (ws.take (t + 1)) h
    y.a = x.a.rotateLeft 5 + roundFunction t x.b x.c x.d + x.e + roundConstant t + ws.getD t 0 ∧
    y.b = x.a ∧ y.c = x.b.rotateLeft 30 ∧ y.d = x.c ∧ y.e = x.d

/-- 42_hmac_sha1.md R135, R140, R141: the initial hash value; the update of the running hash by a block, word by word,
from the working variables after the block's eighty rounds; the digest is the five words of the running hash after the
last block of the padded message, the blocks taken in order, each word most significant byte first. So SHA-1 and HMAC
give twenty bytes. -/
def Obligations.DigestBytesAreBigEndianWords : Prop :=
  (initialHash.a = 0x67452301 ∧ initialHash.b = 0xEFCDAB89 ∧ initialHash.c = 0x98BADCFE ∧
    initialHash.d = 0x10325476 ∧ initialHash.e = 0xC3D2E1F0) ∧
  (∀ (h : HashWords) (B : List Byte),
    let v := sha1Rounds 0 (schedule B) h
    (compress h B).a = v.a + h.a ∧ (compress h B).b = v.b + h.b ∧ (compress h B).c = v.c + h.c ∧
      (compress h B).d = v.d + h.d ∧ (compress h B).e = v.e + h.e) ∧
  (∀ M : List Byte,
    let H := (blocks (pad M)).foldl compress initialHash
    sha1 M = digestBytes H ∧
    (∀ j k : Nat, j < 5 → k < 4 →
      byteAt (sha1 M) (4 * j + k) = ([H.a, H.b, H.c, H.d, H.e].getD j 0).extractLsb' (24 - 8 * k) 8) ∧
    (sha1 M).length = 20) ∧
  (∀ (h : HashWords) (j k : Nat), j < 5 → k < 4 →
    byteAt (digestBytes h) (4 * j + k) = ([h.a, h.b, h.c, h.d, h.e].getD j 0).extractLsb' (24 - 8 * k) 8) ∧
  (∀ K m : List Byte, (hmacSha1 K m).length = 20)

/-- 42_hmac_sha1.md R131: HMAC-SHA1 over the 64-byte key block; a key of more than 64 bytes acts as its SHA-1 digest,
and zero bytes after a shorter key, up to 64, change nothing. R131 is for a key of one or more bytes; that the function is
the same expression on the empty key, with which no command calls it (R132), is the model's (log 8). -/
def Obligations.HmacKeyIsHashedOrZeroFilled : Prop :=
  ∀ K m : List Byte,
    (let K' := if 64 < K.length then sha1 K else K
     let K0 := K' ++ List.replicate (64 - K'.length) 0x00
     K0.length = 64 ∧ hmacSha1 K m = sha1 (K0.map (· ^^^ 0x5C) ++ sha1 (K0.map (· ^^^ 0x36) ++ m))) ∧
    (64 < K.length → hmacSha1 K m = hmacSha1 (sha1 K) m) ∧
    (∀ n, K.length + n ≤ 64 → hmacSha1 (K ++ List.replicate n 0x00) m = hmacSha1 K m)

/-! ### The generate commands -/

/-- 43_generate.md R178: TOTP_GEN in every state, path by path, with all it leaves alone; TIME is {TIME_HI, TIME_LO}
and CTR is {CTR_HI, CTR_LO}. -/
def Obligations.TotpGenComputesTheTimeCode : Prop :=
  ∀ s : State,
    encode .totpGen = 0x00000003 ∧
    (s.status.keyInvalid = true → exec .totpGen s = .next
      { s with
        key := Memory.zeroed, keyLen := 0, bitBuf := 0, bitCnt := 0
        status := { s.status with
          keyInvalid := false, resultValid := false, busy := false, done := true, errCode := 3 } }) ∧
    (s.status.keyInvalid = false → s.keyLen = 0 → exec .totpGen s = .next
      { s with
        key := Memory.zeroed, keyLen := 0, bitBuf := 0, bitCnt := 0
        status := { s.status with
          keyInvalid := false, resultValid := false, busy := false, done := true, errCode := 2 } }) ∧
    (s.status.keyInvalid = false → s.keyLen ≠ 0 → ∃ t, exec .totpGen s = .next t ∧
      (t.ctrHi ++ t.ctrLo).toNat = (s.timeHi ++ s.timeLo).toNat / 30000 ∧
      t.results.remain.toNat = 30 - (s.timeHi ++ s.timeLo).toNat / 1000 % 30 ∧
      t.results =
        { writeResults (hmacSha1 (keyBytes s) (be64 (t.ctrHi ++ t.ctrLo))) s.results with
          remain := t.results.remain } ∧
      t = { s with
        results := t.results, ctrLo := t.ctrLo, ctrHi := t.ctrHi
        key := Memory.zeroed, keyLen := 0, bitBuf := 0, bitCnt := 0
        status := { s.status with
          keyInvalid := false, resultValid := true, busy := false, done := true, errCode := 0 } })

/-- 43_generate.md R179: HOTP_GEN in every state, path by path, with all it leaves alone (CTR and TIME among it). -/
def Obligations.HotpGenComputesTheCounterCode : Prop :=
  ∀ s : State,
    encode .hotpGen = 0x00000004 ∧
    (s.status.keyInvalid = true → exec .hotpGen s = .next
      { s with
        key := Memory.zeroed, keyLen := 0, bitBuf := 0, bitCnt := 0
        status := { s.status with
          keyInvalid := false, resultValid := false, busy := false, done := true, errCode := 3 } }) ∧
    (s.status.keyInvalid = false → s.keyLen = 0 → exec .hotpGen s = .next
      { s with
        key := Memory.zeroed, keyLen := 0, bitBuf := 0, bitCnt := 0
        status := { s.status with
          keyInvalid := false, resultValid := false, busy := false, done := true, errCode := 2 } }) ∧
    (s.status.keyInvalid = false → s.keyLen ≠ 0 → exec .hotpGen s = .next
      { s with
        results :=
          { writeResults (hmacSha1 (keyBytes s) (be64 (s.ctrHi ++ s.ctrLo))) s.results with remain := 0 }
        key := Memory.zeroed, keyLen := 0, bitBuf := 0, bitCnt := 0
        status := { s.status with
          keyInvalid := false, resultValid := true, busy := false, done := true, errCode := 0 } })

/-- 43_generate.md R170, R171 (with the counter's bound of R183): the counter and the remaining seconds of every time, and their boundary values. -/
def Obligations.TimeGivesCounterAndRemainingSeconds : Prop :=
  ∀ t : DWord,
    (timeCounter t).toNat = t.toNat / 30000 ∧ (timeCounter t).toNat = t.toNat / 1000 / 30 ∧
    (timeCounter t).toNat ≤ 0x00022F3D9397B043 ∧
    (remainingSeconds t).toNat = 30 - t.toNat / 1000 % 30 ∧
    1 ≤ (remainingSeconds t).toNat ∧ (remainingSeconds t).toNat ≤ 30 ∧
    (t.toNat % 30000 ≤ 999 → (remainingSeconds t).toNat = 30) ∧
    (t.toNat % 30000 = 1000 → (remainingSeconds t).toNat = 29) ∧
    (t.toNat % 30000 = 29999 → (remainingSeconds t).toNat = 1)

/-- 10_state.md R37: HASH0 to HASH4 hold the twenty digest bytes, each word most significant byte first. -/
def Obligations.HashRegistersHoldTheDigest : Prop :=
  ∀ (hash : List Byte) (r : Results), hash.length = 20 →
    wordBytes (writeResults hash r).hash0 ++ wordBytes (writeResults hash r).hash1 ++
      wordBytes (writeResults hash r).hash2 ++ wordBytes (writeResults hash r).hash3 ++
      wordBytes (writeResults hash r).hash4 = hash

/-- 43_generate.md R172 to R175: OFFSET, TRUNC and CODE of a digest; the four bytes read lie before the last one. -/
def Obligations.TruncationReadsFourBytesAtTheOffset : Prop :=
  ∀ (hash : List Byte) (r : Results),
    let q := writeResults hash r
    let o := q.offset.toNat
    o = (byteAt hash 19).toNat % 16 ∧ o + 3 ≤ 18 ∧
    (truncationRaw hash).toNat = (byteAt hash o).toNat * 2 ^ 24 + (byteAt hash (o + 1)).toNat * 2 ^ 16 +
      (byteAt hash (o + 2)).toNat * 2 ^ 8 + (byteAt hash (o + 3)).toNat ∧
    q.trunc.toNat = (truncationRaw hash).toNat % 2 ^ 31 ∧
    q.code.toNat = q.trunc.toNat % 1000000 ∧ q.remain = r.remain

/-- 43_generate.md R176 (in the registers of 10_state.md R41): the six ASCII digits of the code, most significant
first, are its decimal digits, and CODE_STR1 ends in two zero bytes. -/
def Obligations.CodeStringRendersTheCode : Prop :=
  ∀ (hash : List Byte) (s : State),
    let t := { s with results := writeResults hash s.results }
    let d := fun k => if k < 4 then ((readReg t .codeStr0).extractLsb' (24 - 8 * k) 8).toNat
      else ((readReg t .codeStr1).extractLsb' (24 - 8 * (k - 4)) 8).toNat
    (∀ k, k < 6 → d k = 0x30 + t.results.code.toNat / 10 ^ (5 - k) % 10) ∧
    (∀ k, k < 6 → 0x30 ≤ d k ∧ d k ≤ 0x39) ∧
    (d 0 - 0x30) * 100000 + (d 1 - 0x30) * 10000 + (d 2 - 0x30) * 1000 + (d 3 - 0x30) * 100 + (d 4 - 0x30) * 10 +
      (d 5 - 0x30) = t.results.code.toNat ∧
    (readReg t .codeStr1).extractLsb' 0 16 = 0

/-- 43_generate.md R182: TOTP_GEN at TIME = t and HOTP_GEN at CTR = t div 30000 with the same key bytes write the same
result registers but for REMAIN, and only TOTP_GEN writes CTR. -/
def Obligations.TotpAgreesWithHotpOnItsCounter : Prop :=
  ∀ s u : State, GenerateReady s → GenerateReady u → keyBytes s = keyBytes u →
    (counter u).toNat = (timeInput s).toNat / 30000 →
    ∃ s' u', exec .totpGen s = .next s' ∧ exec .hotpGen u = .next u' ∧
      { s'.results with remain := 0 } = u'.results ∧ counter s' = counter u' ∧ counter u' = counter u

/-- 43_generate.md R181: what a successful generate command writes depends on the key bytes and on TIME (or CTR) alone,
not on the rest of the state. -/
def Obligations.GeneratedResultsDependOnKeyAndTimeAlone : Prop :=
  ∀ s u : State, GenerateReady s → GenerateReady u → keyBytes s = keyBytes u →
    (timeInput s = timeInput u → ∃ s' u', exec .totpGen s = .next s' ∧ exec .totpGen u = .next u' ∧
      s'.results = u'.results ∧ counter s' = counter u') ∧
    (counter s = counter u → ∃ s' u', exec .hotpGen s = .next s' ∧ exec .hotpGen u = .next u' ∧
      s'.results = u'.results ∧ counter s' = counter u')

/-- 70_reset_and_hazards.md R239: every generate command, on success and on failure, ends the key lifetime and zeroes
the key, so a second one without a push fails with CRYPTO; the results of the first stay. -/
def Obligations.SecondGenerateFailsWithCrypto : Prop :=
  ∀ (i j : Instr) (s : State), (i = .totpGen ∨ i = .hotpGen) → (j = .totpGen ∨ j = .hotpGen) →
    ∃ t u, exec i s = .next t ∧ (∀ a, Memory.read t.key a = 0) ∧ t.keyLen = 0 ∧ t.status.keyInvalid = false ∧
      exec j t = .next u ∧ u.status.errCode = 2 ∧ u.status.resultValid = false ∧ u.results = t.results ∧
      counter u = counter t

/-- 41_base32.md R109: a generate command uses the key bytes alone, ignores the bits left over in BITBUF and BITCNT, and
zeroes them. -/
def Obligations.LeftoverBitsAreIgnored : Prop :=
  ∀ (i : Instr) (s : State) (b : BitVec 7) (n : BitVec 4), (i = .totpGen ∨ i = .hotpGen) →
    ∃ t, exec i s = .next t ∧ exec i { s with bitBuf := b, bitCnt := n } = .next t ∧ t.bitBuf = 0 ∧ t.bitCnt = 0

/-- 10_state.md R37 to R42: the result registers change in a step only by a TOTP_GEN or HOTP_GEN that passes its
checks, or by the reset. -/
def Obligations.OnlyASuccessfulGenerateWritesResults : Prop :=
  ∀ s t : State, step s = .next t → t.results ≠ s.results →
    (EngineRuns s ∧ GenerateReady s ∧ (decode s.pending = .ok .totpGen ∨ decode s.pending = .ok .hotpGen) ∧
      t.status.errCode = 0 ∧ t.status.resultValid = true) ∨
    (nextAgent s = .host ∧ s.host.head? = some .reset)

/-! ### The register window -/

/-- 20_memory.md R63: an admitted read, whatever BUSY is, returns the register's value to the HOST and changes nothing
but the HOST's own record. -/
def Obligations.ReadReturnsTheRegisterAndChangesNothing : Prop :=
  ∀ (s : State) (off : Nat), off < 0x100 → off % 4 = 0 → HostIssues (rd s.config off) s →
    step s = .next { popTurn s with host := s.host.tail, reads := readOffset s off :: s.reads }

/-- 10_state.md R23, R32 to R44: what each offset reads as, at its width, the other bits 0. -/
def Obligations.RegisterMapReadsEachField : Prop :=
  ∀ s : State, s.config.wf →
    readOffset s 0x00 = 0 ∧ readOffset s 0x04 = statusWord s.status ∧
    readOffset s 0x08 = s.timeLo ∧ readOffset s 0x0C = s.timeHi ∧
    readOffset s 0x10 = s.ctrLo ∧ readOffset s 0x14 = s.ctrHi ∧
    (readOffset s 0x18).toNat = s.keyLen.toNat ∧ (readOffset s 0x1C).toNat = s.bitCnt.toNat ∧
    readOffset s 0x20 = s.results.hash0 ∧ readOffset s 0x24 = s.results.hash1 ∧
    readOffset s 0x28 = s.results.hash2 ∧ readOffset s 0x2C = s.results.hash3 ∧
    readOffset s 0x30 = s.results.hash4 ∧
    (readOffset s 0x34).toNat = s.results.trunc.toNat ∧ (readOffset s 0x38).toNat = s.results.offset.toNat ∧
    (readOffset s 0x3C).toNat = s.results.code.toNat ∧ readOffset s 0x40 = s.results.codeStr0 ∧
    (readOffset s 0x44).toNat = s.results.codeStr1.toNat * 2 ^ 16 ∧
    (readOffset s 0x48).toNat = s.results.remain.toNat ∧ (readOffset s 0x4C).toNat = s.config.keyMaxBytes ∧
    (∀ off, 0x50 ≤ off → readOffset s off = 0)

/-- 10_state.md R25: the layout of STATUS, that all of it is 0 after reset, and that a write acts on bits 1 and 3
alone. -/
def Obligations.StatusHasItsLayout : Prop :=
  (∀ f : Status,
    (statusWord f).getLsbD 0 = f.busy ∧ (statusWord f).getLsbD 1 = f.done ∧
    (statusWord f).getLsbD 2 = f.keyInvalid ∧ (statusWord f).getLsbD 3 = f.overrun ∧
    (statusWord f).getLsbD 4 = f.resultValid ∧ (statusWord f).extractLsb' 5 3 = 0 ∧
    (statusWord f).extractLsb' 8 4 = f.errCode ∧ (statusWord f).extractLsb' 12 20 = 0) ∧
  (∀ c : Config, statusWord (State.resetWith c).status = 0) ∧
  (∀ (v v' : Word) (s : State), v.getLsbD 1 = v'.getLsbD 1 → v.getLsbD 3 = v'.getLsbD 3 →
    writeOffset s 0x04 v = writeOffset s 0x04 v')

/-- 20_memory.md R64, R65: a write with BUSY = 1 is dropped, whatever its offset, and sets OVERRUN; what a write with
BUSY = 0 does, offset by offset. All that each leaves alone is said too. -/
def Obligations.WriteIsDroppedOrActsByOffset : Prop :=
  ∀ (s : State) (off : Nat) (v : Word), off < 0x100 → off % 4 = 0 → HostIssues (wr s.config off v) s →
    (s.status.busy = true → step s = .next { afterIssue s with status := { s.status with overrun := true } }) ∧
    (s.status.busy = false →
      (off = 0x00 → step s = .next
        { afterIssue s with pending := v, status := { s.status with busy := true, done := false } }) ∧
      (off = 0x04 → step s = .next
        { afterIssue s with
          status := { s.status with
            done := if v.getLsbD 1 then false else s.status.done
            overrun := if v.getLsbD 3 then false else s.status.overrun } }) ∧
      (off = 0x08 → step s = .next { afterIssue s with timeLo := v }) ∧
      (off = 0x0C → step s = .next { afterIssue s with timeHi := v }) ∧
      (off = 0x10 → step s = .next { afterIssue s with ctrLo := v }) ∧
      (off = 0x14 → step s = .next { afterIssue s with ctrHi := v }) ∧
      (0x18 ≤ off → step s = .next (afterIssue s)))

/-- 20_memory.md R62: after a reset, a HOST access is given a meaning exactly when it is 32 bits wide, at an offset
that is a multiple of 4, and inside the window; every other one is refused. -/
def Obligations.OnlyAdmittedAccessesHaveAMeaning : Prop :=
  ∀ (s : State) (addr size : Nat) (op : HostOp), (op = .read addr size ∨ ∃ v, op = .write addr size v) →
    HostIssues op s →
    (size = 4 ∧ s.config.base ≤ addr ∧ addr < s.config.base + 0x100 ∧ (addr - s.config.base) % 4 = 0 →
      ∃ t, step s = .next t) ∧
    (¬(size = 4 ∧ s.config.base ≤ addr ∧ addr < s.config.base + 0x100 ∧ (addr - s.config.base) % 4 = 0) →
      ∃ r, r ≠ .beforeFirstReset ∧ step s = .refused r)

/-- 10_state.md R31, R45 and the other rules that name a writer: the HOST's turn, but for a reset, leaves KEY, KEY_LEN,
BITBUF, BITCNT, KEY_INVALID, RESULT_VALID, ERRCODE and the result registers alone. -/
def Obligations.HostTurnFrame : Prop :=
  ∀ s t : State, nextAgent s = .host → s.host.head? ≠ some .reset → step s = .next t →
    t.key = s.key ∧ t.keyLen = s.keyLen ∧ t.bitBuf = s.bitBuf ∧ t.bitCnt = s.bitCnt ∧
    t.status.keyInvalid = s.status.keyInvalid ∧ t.status.resultValid = s.status.resultValid ∧
    t.status.errCode = s.status.errCode ∧ t.results = s.results ∧ t.config = s.config ∧ t.wasReset = s.wasReset

/-- 10_state.md R45, R46, R47 and 20_memory.md R60: no HOST operation lets the HOST learn KEY, BITBUF or PENDING: with
other values of them, the same operation returns the same reads and leaves the HOST in the same place. -/
def Obligations.HostLearnsNoHiddenState : Prop :=
  ∀ (s t : State) (k : Memory) (b : BitVec 7) (p : Word), nextAgent s = .host → step s = .next t →
    ∃ t', step { s with key := k, bitBuf := b, pending := p } = .next t' ∧
      t'.reads = t.reads ∧ t'.host = t.host ∧ t'.status = t.status ∧ t'.results = t.results

/-- 60_exceptions.md R220: the only non-normal outcomes are the refusals of R62's unadmitted accesses and of accesses
and ENGINE steps before the first reset. -/
def Obligations.StepsStopOnlyAtR62AndR233 : Prop :=
  ∀ s : State, (∃ t, step s = .next t) ∨
    (s.wasReset = false ∧ step s = .refused .beforeFirstReset) ∨
    (nextAgent s = .host ∧ ∃ addr size r, (s.host.head? = some (.read addr size) ∨
        ∃ v, s.host.head? = some (.write addr size v)) ∧
      ¬(size = 4 ∧ s.config.base ≤ addr ∧ addr < s.config.base + 0x100 ∧ (addr - s.config.base) % 4 = 0) ∧
      step s = .refused r)

/-! ### Reset and invariants -/

/-- 70_reset_and_hazards.md R230, R231: the reset, at any time (also with a command pending, which it cancels), gives
every state element its reset value; every offset of the window then reads 0 but that of PARAM. That the HOST's
operations, the schedule and the values read stay is the model's choice (log 19). -/
def Obligations.ResetReturnsEveryRegisterToItsValue : Prop :=
  ∀ s : State, nextAgent s = .host → s.host.head? = some .reset →
    ∃ t, step s = .next t ∧
      (∀ off, off < 0x100 → off % 4 = 0 → off ≠ 0x4C → readOffset t off = 0) ∧ readOffset t 0x4C = readOffset s 0x4C ∧
      (∀ a, Memory.read t.key a = 0) ∧ t.bitBuf = 0 ∧ t.pending = 0 ∧
      t = { State.resetWith s.config with host := s.host.tail, turns := s.turns.tail, reads := s.reads }

/-- 70_reset_and_hazards.md R233: before the first reset, every HOST read, write and poll and every ENGINE step is
refused; a reset is not. -/
def Obligations.NothingButResetBeforeTheFirstReset : Prop :=
  ∀ s : State, s.wasReset = false →
    (nextAgent s = .engine → step s = .refused .beforeFirstReset) ∧
    (∀ op, nextAgent s = .host → s.host.head? = some op → op ≠ .reset → step s = .refused .beforeFirstReset) ∧
    (nextAgent s = .host → s.host.head? = some .reset → ∃ t, step s = .next t ∧ t.wasReset = true)

/-- 10_state.md R48: the invariant holds after a reset, for every configuration the spec admits. -/
def Obligations.InvariantHoldsAfterReset : Prop :=
  (∀ c : Config, c.wf → StateInv (State.resetWith c)) ∧ StateInv State.reset

/-- 10_state.md R48: every step keeps the invariant. -/
def Obligations.StepKeepsTheInvariant : Prop :=
  ∀ s t : State, StateInv s → step s = .next t → StateInv t

/-- 10_state.md R43: PARAM reads KEY_MAX_BYTES, and no step, the reset included, changes it. -/
def Obligations.ParamIsAConstantOfTheConfiguration : Prop :=
  (∀ s : State, s.config.wf → (readOffset s 0x4C).toNat = s.config.keyMaxBytes) ∧
  (∀ s t : State, step s = .next t → t.config = s.config ∧ readOffset t 0x4C = readOffset s 0x4C)

/-! ### Flags -/

/-- 10_state.md R26: BUSY rises only when the HOST's write to CMD is accepted, and falls only when the ENGINE completes
a command or at a reset. -/
def Obligations.BusyRisesAtAcceptanceAndFallsAtCompletion : Prop :=
  ∀ s t : State, step s = .next t →
    (s.status.busy = false → t.status.busy = true →
      ∃ v, HostIssues (wr s.config 0x00 v) s ∧ t.pending = v ∧ t.status.done = false) ∧
    (s.status.busy = true → t.status.busy = false →
      (EngineRuns s ∧ t.status.done = true) ∨ (nextAgent s = .host ∧ s.host.head? = some .reset))

/-- 10_state.md R28: KEY_INVALID is set only by a B32_PUSH that completes with INVALID_INPUT or KEY_OVERFLOW, and
cleared only by KEY_CLEAR, TOTP_GEN, HOTP_GEN or the reset. -/
def Obligations.KeyInvalidChangesOnlyAsItsRuleSays : Prop :=
  ∀ s t : State, step s = .next t →
    (s.status.keyInvalid = false → t.status.keyInvalid = true →
      EngineRuns s ∧ (∃ c, decode s.pending = .ok (.b32Push c)) ∧
        (t.status.errCode = 1 ∨ t.status.errCode = 4)) ∧
    (s.status.keyInvalid = true → t.status.keyInvalid = false →
      (EngineRuns s ∧ (decode s.pending = .ok .keyClear ∨ decode s.pending = .ok .totpGen ∨
        decode s.pending = .ok .hotpGen)) ∨
      (nextAgent s = .host ∧ s.host.head? = some .reset))

/-- 10_state.md R30: RESULT_VALID after each kind of command. -/
def Obligations.ResultValidTellsOfTheLastGenerate : Prop :=
  (∀ s : State, EngineRuns s → ∃ t, step s = .next t ∧
    ((decode s.pending = .ok .totpGen ∨ decode s.pending = .ok .hotpGen) →
      (t.status.errCode = 0 ∧ t.status.resultValid = true) ∨
      ((t.status.errCode = 2 ∨ t.status.errCode = 3) ∧ t.status.resultValid = false)) ∧
    (decode s.pending ≠ .ok .totpGen → decode s.pending ≠ .ok .hotpGen →
      t.status.resultValid = s.status.resultValid)) ∧
  (∀ c : Config, (State.resetWith c).status.resultValid = false)

/-- 10_state.md R31 and R29, with 60_exceptions.md R205: ERRCODE changes only at a completion or a reset; OVERRUN is set
only by a HOST write that finds BUSY = 1, and cleared only by a HOST write to STATUS with bit 3 = 1 and BUSY = 0, or by a
reset. -/
def Obligations.ErrCodeAndOverrunHaveTheirWriters : Prop :=
  ∀ s t : State, step s = .next t →
    (t.status.errCode ≠ s.status.errCode → EngineRuns s ∨ (nextAgent s = .host ∧ s.host.head? = some .reset)) ∧
    (s.status.overrun = false → t.status.overrun = true →
      s.status.busy = true ∧ ∃ addr v, HostIssues (.write addr 4 v) s) ∧
    (s.status.overrun = true → t.status.overrun = false →
      (s.status.busy = false ∧ ∃ v, v.getLsbD 3 = true ∧ HostIssues (wr s.config 0x04 v) s) ∨
      (nextAgent s = .host ∧ s.host.head? = some .reset))

/-! ### Runs -/

/-- 20_memory.md R70: while a command stays pending, its word does not change. -/
def Obligations.PendingWordIsFixedWhileBusy : Prop :=
  ∀ s t : State, step s = .next t → s.status.busy = true →
    t.pending = s.pending ∨ (nextAgent s = .host ∧ s.host.head? = some .reset)

/-- 70_reset_and_hazards.md R241: every pending command completes (or is cancelled by a reset), whatever the schedule:
within one step more than the schedule has turns, BUSY is 0, unless a HOST access was refused before. -/
def Obligations.PendingCommandCompletes : Prop :=
  ∀ s : State, s.wasReset = true → s.status.busy = true →
    ∃ k, k ≤ s.turns.length + 1 ∧
      ((∃ t, run k s = .next t ∧ t.status.busy = false) ∨ ∃ r, run k s = .refused r)

/-- 30_encoding.md R93, 60_exceptions.md R202, R203: on an idle block, `DO <command>` takes three steps (the write, the
command, one poll) and leaves what the command leaves. -/
def Obligations.DoCommandExecutesTheCommand : Prop :=
  ∀ (i : Instr) (s : State) (rest : List HostOp), s.wasReset = true → s.status.busy = false → s.turns = [] →
    s.host = doCommand s.config i ++ rest →
    ∃ t, exec i (accept (encode i) { s with host := rest }) = .next t ∧ run 3 s = .next t

/-- 30_encoding.md R91: the assembled words of the mnemonics, and of B32_PUSH with a quoted ASCII character, with a
numeral of two hexadecimal digits and with a decimal numeral, at every code. The one space, the decimal form and the case
of the hexadecimal digits are the model's choice (log 14). -/
def Obligations.AssembledLinesAreTheEncodedCommands : Prop :=
  let push := ['B', '3', '2', '_', 'P', 'U', 'S', 'H', ' ']
  let lower := ['0', '1', '2', '3', '4', '5', '6', '7', '8', '9', 'a', 'b', 'c', 'd', 'e', 'f']
  let upper := ['0', '1', '2', '3', '4', '5', '6', '7', '8', '9', 'A', 'B', 'C', 'D', 'E', 'F']
  assemble ['K', 'E', 'Y', '_', 'C', 'L', 'E', 'A', 'R'] = some 0x00000001 ∧
  assemble ['T', 'O', 'T', 'P', '_', 'G', 'E', 'N'] = some 0x00000003 ∧
  assemble ['H', 'O', 'T', 'P', '_', 'G', 'E', 'N'] = some 0x00000004 ∧
  (∀ ch : Char, ch.toNat < 128 →
    (assemble (push ++ ['\'', ch, '\''])).map BitVec.toNat = some (ch.toNat * 0x100 + 0x02)) ∧
  (∀ c : Byte, ∀ digits ∈ [lower, upper],
    (assemble (push ++ ['0', 'x', digits.getD (c.toNat / 16) '0', digits.getD (c.toNat % 16) '0'])).map BitVec.toNat =
      some (c.toNat * 0x100 + 0x02)) ∧
  (∀ c : Byte, (assemble (push ++ Nat.toDigits 10 c.toNat)).map BitVec.toNat = some (c.toNat * 0x100 + 0x02))

/-- The one canonical form of KEY (log 6): memories that read the same everywhere are the same data. -/
def Obligations.EqualReadsMeanEqualMemories : Prop :=
  ∀ m m' : Memory, Memory.wf m → Memory.wf m' → (∀ a, Memory.read m a = Memory.read m' a) → m = m'

/-! ### The blocks of a message -/

/-- 42_hmac_sha1.md R134: the padded message is its blocks of 64 bytes, one after the other, as many as its length
divided by 64, and the first sixteen words of a block's schedule are its bytes read big-endian, four by four. -/
def Obligations.BlocksSplitThePaddedMessage : Prop :=
  ∀ M : List Byte,
    (blocks (pad M)).length = (pad M).length / 64 ∧ (blocks (pad M)).flatten = pad M ∧
    ∀ B ∈ blocks (pad M), B.length = 64 ∧ ∀ t, t < 16 →
      ((schedule B).getD t 0).toNat = (byteAt B (4 * t)).toNat * 2 ^ 24 + (byteAt B (4 * t + 1)).toNat * 2 ^ 16 +
        (byteAt B (4 * t + 2)).toNat * 2 ^ 8 + (byteAt B (4 * t + 3)).toNat
end

