-- ==== Sys2Proof/Laws/State.lean ====
section
/-! SUPPORT. One lemma per field per update of State, true by rfl, so that no proof unfolds a record update. -/

namespace Sys2Proof.Machine

@[simp] theorem poisonKey_eq (s : State) : poisonKey s = zeroKey true s := rfl
@[simp] theorem endKey_eq (s : State) : endKey s = zeroKey false s := rfl
@[simp] theorem raise_eq (e : ErrCode) (s : State) : raise e s = .next (complete e s) := rfl

@[simp] theorem zeroKey_config (b : Bool) (s : State) : (zeroKey b s).config = s.config := rfl
@[simp] theorem zeroKey_wasReset (b : Bool) (s : State) : (zeroKey b s).wasReset = s.wasReset := rfl
@[simp] theorem zeroKey_status (b : Bool) (s : State)
    : (zeroKey b s).status = { s.status with keyInvalid := b } := rfl
@[simp] theorem zeroKey_timeLo (b : Bool) (s : State) : (zeroKey b s).timeLo = s.timeLo := rfl
@[simp] theorem zeroKey_timeHi (b : Bool) (s : State) : (zeroKey b s).timeHi = s.timeHi := rfl
@[simp] theorem zeroKey_ctrLo (b : Bool) (s : State) : (zeroKey b s).ctrLo = s.ctrLo := rfl
@[simp] theorem zeroKey_ctrHi (b : Bool) (s : State) : (zeroKey b s).ctrHi = s.ctrHi := rfl
@[simp] theorem zeroKey_keyLen (b : Bool) (s : State) : (zeroKey b s).keyLen = 0 := rfl
@[simp] theorem zeroKey_bitCnt (b : Bool) (s : State) : (zeroKey b s).bitCnt = 0 := rfl
@[simp] theorem zeroKey_results (b : Bool) (s : State) : (zeroKey b s).results = s.results := rfl
@[simp] theorem zeroKey_key (b : Bool) (s : State) : (zeroKey b s).key = Memory.zeroed := rfl
@[simp] theorem zeroKey_bitBuf (b : Bool) (s : State) : (zeroKey b s).bitBuf = 0 := rfl
@[simp] theorem zeroKey_pending (b : Bool) (s : State) : (zeroKey b s).pending = s.pending := rfl
@[simp] theorem zeroKey_host (b : Bool) (s : State) : (zeroKey b s).host = s.host := rfl
@[simp] theorem zeroKey_turns (b : Bool) (s : State) : (zeroKey b s).turns = s.turns := rfl
@[simp] theorem zeroKey_reads (b : Bool) (s : State) : (zeroKey b s).reads = s.reads := rfl

@[simp] theorem complete_config (e : ErrCode) (s : State) : (complete e s).config = s.config := rfl
@[simp] theorem complete_wasReset (e : ErrCode) (s : State) : (complete e s).wasReset = s.wasReset := rfl
@[simp] theorem complete_status (e : ErrCode) (s : State) : (complete e s).status = statusComplete e s.status := rfl
@[simp] theorem complete_timeLo (e : ErrCode) (s : State) : (complete e s).timeLo = s.timeLo := rfl
@[simp] theorem complete_timeHi (e : ErrCode) (s : State) : (complete e s).timeHi = s.timeHi := rfl
@[simp] theorem complete_ctrLo (e : ErrCode) (s : State) : (complete e s).ctrLo = s.ctrLo := rfl
@[simp] theorem complete_ctrHi (e : ErrCode) (s : State) : (complete e s).ctrHi = s.ctrHi := rfl
@[simp] theorem complete_keyLen (e : ErrCode) (s : State) : (complete e s).keyLen = s.keyLen := rfl
@[simp] theorem complete_bitCnt (e : ErrCode) (s : State) : (complete e s).bitCnt = s.bitCnt := rfl
@[simp] theorem complete_results (e : ErrCode) (s : State) : (complete e s).results = s.results := rfl
@[simp] theorem complete_key (e : ErrCode) (s : State) : (complete e s).key = s.key := rfl
@[simp] theorem complete_bitBuf (e : ErrCode) (s : State) : (complete e s).bitBuf = s.bitBuf := rfl
@[simp] theorem complete_pending (e : ErrCode) (s : State) : (complete e s).pending = s.pending := rfl
@[simp] theorem complete_host (e : ErrCode) (s : State) : (complete e s).host = s.host := rfl
@[simp] theorem complete_turns (e : ErrCode) (s : State) : (complete e s).turns = s.turns := rfl
@[simp] theorem complete_reads (e : ErrCode) (s : State) : (complete e s).reads = s.reads := rfl

@[simp] theorem accept_config (w : Word) (s : State) : (accept w s).config = s.config := rfl
@[simp] theorem accept_wasReset (w : Word) (s : State) : (accept w s).wasReset = s.wasReset := rfl
@[simp] theorem accept_status (w : Word) (s : State) : (accept w s).status = statusAccept s.status := rfl
@[simp] theorem accept_timeLo (w : Word) (s : State) : (accept w s).timeLo = s.timeLo := rfl
@[simp] theorem accept_timeHi (w : Word) (s : State) : (accept w s).timeHi = s.timeHi := rfl
@[simp] theorem accept_ctrLo (w : Word) (s : State) : (accept w s).ctrLo = s.ctrLo := rfl
@[simp] theorem accept_ctrHi (w : Word) (s : State) : (accept w s).ctrHi = s.ctrHi := rfl
@[simp] theorem accept_keyLen (w : Word) (s : State) : (accept w s).keyLen = s.keyLen := rfl
@[simp] theorem accept_bitCnt (w : Word) (s : State) : (accept w s).bitCnt = s.bitCnt := rfl
@[simp] theorem accept_results (w : Word) (s : State) : (accept w s).results = s.results := rfl
@[simp] theorem accept_key (w : Word) (s : State) : (accept w s).key = s.key := rfl
@[simp] theorem accept_bitBuf (w : Word) (s : State) : (accept w s).bitBuf = s.bitBuf := rfl
@[simp] theorem accept_pending (w : Word) (s : State) : (accept w s).pending = w := rfl
@[simp] theorem accept_host (w : Word) (s : State) : (accept w s).host = s.host := rfl
@[simp] theorem accept_turns (w : Word) (s : State) : (accept w s).turns = s.turns := rfl
@[simp] theorem accept_reads (w : Word) (s : State) : (accept w s).reads = s.reads := rfl

@[simp] theorem keepBits_config (buf cnt : Nat) (s : State) : (keepBits buf cnt s).config = s.config := rfl
@[simp] theorem keepBits_wasReset (buf cnt : Nat) (s : State) : (keepBits buf cnt s).wasReset = s.wasReset := rfl
@[simp] theorem keepBits_status (buf cnt : Nat) (s : State) : (keepBits buf cnt s).status = s.status := rfl
@[simp] theorem keepBits_timeLo (buf cnt : Nat) (s : State) : (keepBits buf cnt s).timeLo = s.timeLo := rfl
@[simp] theorem keepBits_timeHi (buf cnt : Nat) (s : State) : (keepBits buf cnt s).timeHi = s.timeHi := rfl
@[simp] theorem keepBits_ctrLo (buf cnt : Nat) (s : State) : (keepBits buf cnt s).ctrLo = s.ctrLo := rfl
@[simp] theorem keepBits_ctrHi (buf cnt : Nat) (s : State) : (keepBits buf cnt s).ctrHi = s.ctrHi := rfl
@[simp] theorem keepBits_keyLen (buf cnt : Nat) (s : State) : (keepBits buf cnt s).keyLen = s.keyLen := rfl
@[simp] theorem keepBits_bitCnt (buf cnt : Nat) (s : State) : (keepBits buf cnt s).bitCnt = BitVec.ofNat 4 cnt := rfl
@[simp] theorem keepBits_results (buf cnt : Nat) (s : State) : (keepBits buf cnt s).results = s.results := rfl
@[simp] theorem keepBits_key (buf cnt : Nat) (s : State) : (keepBits buf cnt s).key = s.key := rfl
@[simp] theorem keepBits_bitBuf (buf cnt : Nat) (s : State)
    : (keepBits buf cnt s).bitBuf = BitVec.ofNat 7 (buf &&& ((1 <<< cnt) - 1)) := rfl
@[simp] theorem keepBits_pending (buf cnt : Nat) (s : State) : (keepBits buf cnt s).pending = s.pending := rfl
@[simp] theorem keepBits_host (buf cnt : Nat) (s : State) : (keepBits buf cnt s).host = s.host := rfl
@[simp] theorem keepBits_turns (buf cnt : Nat) (s : State) : (keepBits buf cnt s).turns = s.turns := rfl
@[simp] theorem keepBits_reads (buf cnt : Nat) (s : State) : (keepBits buf cnt s).reads = s.reads := rfl

@[simp] theorem appendKeyByte_config (b : Byte) (s : State) : (appendKeyByte b s).config = s.config := rfl
@[simp] theorem appendKeyByte_wasReset (b : Byte) (s : State) : (appendKeyByte b s).wasReset = s.wasReset := rfl
@[simp] theorem appendKeyByte_status (b : Byte) (s : State) : (appendKeyByte b s).status = s.status := rfl
@[simp] theorem appendKeyByte_timeLo (b : Byte) (s : State) : (appendKeyByte b s).timeLo = s.timeLo := rfl
@[simp] theorem appendKeyByte_timeHi (b : Byte) (s : State) : (appendKeyByte b s).timeHi = s.timeHi := rfl
@[simp] theorem appendKeyByte_ctrLo (b : Byte) (s : State) : (appendKeyByte b s).ctrLo = s.ctrLo := rfl
@[simp] theorem appendKeyByte_ctrHi (b : Byte) (s : State) : (appendKeyByte b s).ctrHi = s.ctrHi := rfl
@[simp] theorem appendKeyByte_keyLen (b : Byte) (s : State) : (appendKeyByte b s).keyLen = s.keyLen + 1 := rfl
@[simp] theorem appendKeyByte_bitCnt (b : Byte) (s : State) : (appendKeyByte b s).bitCnt = s.bitCnt := rfl
@[simp] theorem appendKeyByte_results (b : Byte) (s : State) : (appendKeyByte b s).results = s.results := rfl
@[simp] theorem appendKeyByte_key (b : Byte) (s : State)
    : (appendKeyByte b s).key = Memory.write s.key s.keyLen.toNat b := rfl
@[simp] theorem appendKeyByte_bitBuf (b : Byte) (s : State) : (appendKeyByte b s).bitBuf = s.bitBuf := rfl
@[simp] theorem appendKeyByte_pending (b : Byte) (s : State) : (appendKeyByte b s).pending = s.pending := rfl
@[simp] theorem appendKeyByte_host (b : Byte) (s : State) : (appendKeyByte b s).host = s.host := rfl
@[simp] theorem appendKeyByte_turns (b : Byte) (s : State) : (appendKeyByte b s).turns = s.turns := rfl
@[simp] theorem appendKeyByte_reads (b : Byte) (s : State) : (appendKeyByte b s).reads = s.reads := rfl

@[simp] theorem setResultValid_config (b : Bool) (s : State) : (setResultValid b s).config = s.config := rfl
@[simp] theorem setResultValid_wasReset (b : Bool) (s : State) : (setResultValid b s).wasReset = s.wasReset := rfl
@[simp] theorem setResultValid_status (b : Bool) (s : State)
    : (setResultValid b s).status = { s.status with resultValid := b } := rfl
@[simp] theorem setResultValid_timeLo (b : Bool) (s : State) : (setResultValid b s).timeLo = s.timeLo := rfl
@[simp] theorem setResultValid_timeHi (b : Bool) (s : State) : (setResultValid b s).timeHi = s.timeHi := rfl
@[simp] theorem setResultValid_ctrLo (b : Bool) (s : State) : (setResultValid b s).ctrLo = s.ctrLo := rfl
@[simp] theorem setResultValid_ctrHi (b : Bool) (s : State) : (setResultValid b s).ctrHi = s.ctrHi := rfl
@[simp] theorem setResultValid_keyLen (b : Bool) (s : State) : (setResultValid b s).keyLen = s.keyLen := rfl
@[simp] theorem setResultValid_bitCnt (b : Bool) (s : State) : (setResultValid b s).bitCnt = s.bitCnt := rfl
@[simp] theorem setResultValid_results (b : Bool) (s : State) : (setResultValid b s).results = s.results := rfl
@[simp] theorem setResultValid_key (b : Bool) (s : State) : (setResultValid b s).key = s.key := rfl
@[simp] theorem setResultValid_bitBuf (b : Bool) (s : State) : (setResultValid b s).bitBuf = s.bitBuf := rfl
@[simp] theorem setResultValid_pending (b : Bool) (s : State) : (setResultValid b s).pending = s.pending := rfl
@[simp] theorem setResultValid_host (b : Bool) (s : State) : (setResultValid b s).host = s.host := rfl
@[simp] theorem setResultValid_turns (b : Bool) (s : State) : (setResultValid b s).turns = s.turns := rfl
@[simp] theorem setResultValid_reads (b : Bool) (s : State) : (setResultValid b s).reads = s.reads := rfl

@[simp] theorem setCounter_config (c : DWord) (s : State) : (setCounter c s).config = s.config := rfl
@[simp] theorem setCounter_wasReset (c : DWord) (s : State) : (setCounter c s).wasReset = s.wasReset := rfl
@[simp] theorem setCounter_status (c : DWord) (s : State) : (setCounter c s).status = s.status := rfl
@[simp] theorem setCounter_timeLo (c : DWord) (s : State) : (setCounter c s).timeLo = s.timeLo := rfl
@[simp] theorem setCounter_timeHi (c : DWord) (s : State) : (setCounter c s).timeHi = s.timeHi := rfl
@[simp] theorem setCounter_ctrLo (c : DWord) (s : State) : (setCounter c s).ctrLo = c.extractLsb' 0 32 := rfl
@[simp] theorem setCounter_ctrHi (c : DWord) (s : State) : (setCounter c s).ctrHi = c.extractLsb' 32 32 := rfl
@[simp] theorem setCounter_keyLen (c : DWord) (s : State) : (setCounter c s).keyLen = s.keyLen := rfl
@[simp] theorem setCounter_bitCnt (c : DWord) (s : State) : (setCounter c s).bitCnt = s.bitCnt := rfl
@[simp] theorem setCounter_results (c : DWord) (s : State) : (setCounter c s).results = s.results := rfl
@[simp] theorem setCounter_key (c : DWord) (s : State) : (setCounter c s).key = s.key := rfl
@[simp] theorem setCounter_bitBuf (c : DWord) (s : State) : (setCounter c s).bitBuf = s.bitBuf := rfl
@[simp] theorem setCounter_pending (c : DWord) (s : State) : (setCounter c s).pending = s.pending := rfl
@[simp] theorem setCounter_host (c : DWord) (s : State) : (setCounter c s).host = s.host := rfl
@[simp] theorem setCounter_turns (c : DWord) (s : State) : (setCounter c s).turns = s.turns := rfl
@[simp] theorem setCounter_reads (c : DWord) (s : State) : (setCounter c s).reads = s.reads := rfl

@[simp] theorem generateResults_config (c : DWord) (r : BitVec 5) (s : State)
    : (generateResults c r s).config = s.config := rfl
@[simp] theorem generateResults_wasReset (c : DWord) (r : BitVec 5) (s : State)
    : (generateResults c r s).wasReset = s.wasReset := rfl
@[simp] theorem generateResults_status (c : DWord) (r : BitVec 5) (s : State)
    : (generateResults c r s).status = s.status := rfl
@[simp] theorem generateResults_timeLo (c : DWord) (r : BitVec 5) (s : State)
    : (generateResults c r s).timeLo = s.timeLo := rfl
@[simp] theorem generateResults_timeHi (c : DWord) (r : BitVec 5) (s : State)
    : (generateResults c r s).timeHi = s.timeHi := rfl
@[simp] theorem generateResults_ctrLo (c : DWord) (r : BitVec 5) (s : State)
    : (generateResults c r s).ctrLo = s.ctrLo := rfl
@[simp] theorem generateResults_ctrHi (c : DWord) (r : BitVec 5) (s : State)
    : (generateResults c r s).ctrHi = s.ctrHi := rfl
@[simp] theorem generateResults_keyLen (c : DWord) (r : BitVec 5) (s : State)
    : (generateResults c r s).keyLen = s.keyLen := rfl
@[simp] theorem generateResults_bitCnt (c : DWord) (r : BitVec 5) (s : State)
    : (generateResults c r s).bitCnt = s.bitCnt := rfl
@[simp] theorem generateResults_results (c : DWord) (r : BitVec 5) (s : State)
    : (generateResults c r s).results = { writeResults (keyedDigest c s) s.results with remain := r } := rfl
@[simp] theorem generateResults_key (c : DWord) (r : BitVec 5) (s : State)
    : (generateResults c r s).key = s.key := rfl
@[simp] theorem generateResults_bitBuf (c : DWord) (r : BitVec 5) (s : State)
    : (generateResults c r s).bitBuf = s.bitBuf := rfl
@[simp] theorem generateResults_pending (c : DWord) (r : BitVec 5) (s : State)
    : (generateResults c r s).pending = s.pending := rfl
@[simp] theorem generateResults_host (c : DWord) (r : BitVec 5) (s : State)
    : (generateResults c r s).host = s.host := rfl
@[simp] theorem generateResults_turns (c : DWord) (r : BitVec 5) (s : State)
    : (generateResults c r s).turns = s.turns := rfl
@[simp] theorem generateResults_reads (c : DWord) (r : BitVec 5) (s : State)
    : (generateResults c r s).reads = s.reads := rfl

@[simp] theorem popTurn_config (s : State) : (popTurn s).config = s.config := rfl
@[simp] theorem popTurn_wasReset (s : State) : (popTurn s).wasReset = s.wasReset := rfl
@[simp] theorem popTurn_status (s : State) : (popTurn s).status = s.status := rfl
@[simp] theorem popTurn_timeLo (s : State) : (popTurn s).timeLo = s.timeLo := rfl
@[simp] theorem popTurn_timeHi (s : State) : (popTurn s).timeHi = s.timeHi := rfl
@[simp] theorem popTurn_ctrLo (s : State) : (popTurn s).ctrLo = s.ctrLo := rfl
@[simp] theorem popTurn_ctrHi (s : State) : (popTurn s).ctrHi = s.ctrHi := rfl
@[simp] theorem popTurn_keyLen (s : State) : (popTurn s).keyLen = s.keyLen := rfl
@[simp] theorem popTurn_bitCnt (s : State) : (popTurn s).bitCnt = s.bitCnt := rfl
@[simp] theorem popTurn_results (s : State) : (popTurn s).results = s.results := rfl
@[simp] theorem popTurn_key (s : State) : (popTurn s).key = s.key := rfl
@[simp] theorem popTurn_bitBuf (s : State) : (popTurn s).bitBuf = s.bitBuf := rfl
@[simp] theorem popTurn_pending (s : State) : (popTurn s).pending = s.pending := rfl
@[simp] theorem popTurn_host (s : State) : (popTurn s).host = s.host := rfl
@[simp] theorem popTurn_turns (s : State) : (popTurn s).turns = s.turns.tail := rfl
@[simp] theorem popTurn_reads (s : State) : (popTurn s).reads = s.reads := rfl

@[simp] theorem applyReset_config (s : State) : (applyReset s).config = s.config := rfl
@[simp] theorem applyReset_wasReset (s : State) : (applyReset s).wasReset = true := rfl
@[simp] theorem applyReset_status (s : State) : (applyReset s).status = Status.cleared := rfl
@[simp] theorem applyReset_timeLo (s : State) : (applyReset s).timeLo = 0 := rfl
@[simp] theorem applyReset_timeHi (s : State) : (applyReset s).timeHi = 0 := rfl
@[simp] theorem applyReset_ctrLo (s : State) : (applyReset s).ctrLo = 0 := rfl
@[simp] theorem applyReset_ctrHi (s : State) : (applyReset s).ctrHi = 0 := rfl
@[simp] theorem applyReset_keyLen (s : State) : (applyReset s).keyLen = 0 := rfl
@[simp] theorem applyReset_bitCnt (s : State) : (applyReset s).bitCnt = 0 := rfl
@[simp] theorem applyReset_results (s : State) : (applyReset s).results = Results.cleared := rfl
@[simp] theorem applyReset_key (s : State) : (applyReset s).key = [] := rfl
@[simp] theorem applyReset_bitBuf (s : State) : (applyReset s).bitBuf = 0 := rfl
@[simp] theorem applyReset_pending (s : State) : (applyReset s).pending = 0 := rfl
@[simp] theorem applyReset_host (s : State) : (applyReset s).host = s.host := rfl
@[simp] theorem applyReset_turns (s : State) : (applyReset s).turns = s.turns := rfl
@[simp] theorem applyReset_reads (s : State) : (applyReset s).reads = s.reads := rfl

@[simp] theorem statusComplete_busy (e : ErrCode) (f : Status) : (statusComplete e f).busy = false := rfl
@[simp] theorem statusComplete_done (e : ErrCode) (f : Status) : (statusComplete e f).done = true := rfl
@[simp] theorem statusComplete_keyInvalid (e : ErrCode) (f : Status)
    : (statusComplete e f).keyInvalid = f.keyInvalid := rfl
@[simp] theorem statusComplete_overrun (e : ErrCode) (f : Status) : (statusComplete e f).overrun = f.overrun := rfl
@[simp] theorem statusComplete_resultValid (e : ErrCode) (f : Status)
    : (statusComplete e f).resultValid = f.resultValid := rfl
@[simp] theorem statusComplete_errCode (e : ErrCode) (f : Status)
    : (statusComplete e f).errCode = errCodeValue e := rfl

@[simp] theorem statusAccept_busy (f : Status) : (statusAccept f).busy = true := rfl
@[simp] theorem statusAccept_done (f : Status) : (statusAccept f).done = false := rfl
@[simp] theorem statusAccept_keyInvalid (f : Status) : (statusAccept f).keyInvalid = f.keyInvalid := rfl
@[simp] theorem statusAccept_overrun (f : Status) : (statusAccept f).overrun = f.overrun := rfl
@[simp] theorem statusAccept_resultValid (f : Status) : (statusAccept f).resultValid = f.resultValid := rfl
@[simp] theorem statusAccept_errCode (f : Status) : (statusAccept f).errCode = f.errCode := rfl

@[simp] theorem statusWrite_busy (v : Word) (f : Status) : (statusWrite v f).busy = f.busy := rfl
@[simp] theorem statusWrite_done (v : Word) (f : Status) : (statusWrite v f).done = (f.done && !v.getLsbD 1) := rfl
@[simp] theorem statusWrite_keyInvalid (v : Word) (f : Status) : (statusWrite v f).keyInvalid = f.keyInvalid := rfl
@[simp] theorem statusWrite_overrun (v : Word) (f : Status)
    : (statusWrite v f).overrun = (f.overrun && !v.getLsbD 3) := rfl
@[simp] theorem statusWrite_resultValid (v : Word) (f : Status) : (statusWrite v f).resultValid = f.resultValid := rfl
@[simp] theorem statusWrite_errCode (v : Word) (f : Status) : (statusWrite v f).errCode = f.errCode := rfl

end Sys2Proof.Machine
end

