-- ==== Sys2Proof/Laws/Memory.lean ====
section
/-! SUPPORT. The laws of KEY's memory: a read after a write, and that every operation keeps the canonical form. -/

namespace Sys2Proof.Machine

@[simp] theorem Memory.read_nil (a : Nat) : Memory.read [] a = 0 := rfl

@[simp] theorem Memory.read_zeroed (a : Nat) : Memory.read Memory.zeroed a = 0 := rfl

theorem Memory.read_cons (x : Nat) (v : Byte) (m : Memory) (a : Nat) :
    Memory.read ((x, v) :: m) a = if x = a then v else Memory.read m a := rfl

/-- An address below every listed one reads 0. -/
theorem Memory.read_of_lt {m : Memory} {a : Nat} (h : ∀ p ∈ m, a < p.1) : Memory.read m a = 0 := by
  induction m with
  | nil => rfl
  | cons p m ih =>
    have hp := h p (by simp)
    rw [Memory.read_cons, if_neg (by omega)]
    exact ih fun q hq => h q (by simp [hq])

/-- The rest of a canonical memory lies above its first address, and is canonical. -/
theorem Memory.wf_cons {p : Host.Cell} {m : Memory} :
    Memory.wf (p :: m) ↔ p.2 ≠ 0 ∧ (∀ q ∈ m, p.1 < q.1) ∧ Memory.wf m := by
  simp only [Memory.wf, List.pairwise_cons, List.mem_cons, forall_eq_or_imp]
  tauto

@[simp] theorem Memory.wf_zeroed : Memory.wf Memory.zeroed := by simp [Memory.wf, Memory.zeroed]

/-- A cell put in front of a canonical memory that lies above it. -/
theorem Memory.wf_cell {a : Nat} {b : Byte} {m : Memory} (hm : Memory.wf m) (h : ∀ q ∈ m, a < q.1) :
    Memory.wf (Memory.cell a b m) := by
  unfold Memory.cell
  split
  · exact hm
  · exact Memory.wf_cons.2 ⟨‹_›, h, hm⟩

theorem Memory.read_cell {a : Nat} {b : Byte} {m : Memory} (h : ∀ q ∈ m, a < q.1) (a' : Nat) :
    Memory.read (Memory.cell a b m) a' = if a' = a then b else Memory.read m a' := by
  unfold Memory.cell
  split
  · split
    · subst a' b; exact Memory.read_of_lt h
    · rfl
  · rw [Memory.read_cons]
    split <;> split <;> first | rfl | omega

/-- An entry of a cell put in front is that cell or one of the rest. -/
theorem Memory.mem_cell {a : Nat} {b : Byte} {m : Memory} {q : Host.Cell} (h : q ∈ Memory.cell a b m) :
    q.1 = a ∨ q ∈ m := by
  unfold Memory.cell at h
  split at h
  · exact .inr h
  · rcases List.mem_cons.1 h with h | h
    · exact .inl (by rw [h])
    · exact .inr h

/-- An address of a written memory is the written one or was listed before. -/
theorem Memory.mem_write {m : Memory} {a : Nat} {b : Byte} {q : Host.Cell} (h : q ∈ Memory.write m a b) :
    q.1 = a ∨ q ∈ m := by
  induction m with
  | nil => exact Memory.mem_cell h
  | cons p m ih =>
    obtain ⟨x, v⟩ := p
    simp only [Memory.write] at h
    split at h
    · rcases List.mem_cons.1 h with h | h
      · exact .inr (by simp [h])
      · exact (ih h).imp_right (List.mem_cons_of_mem _)
    · split at h
      · exact (Memory.mem_cell h).imp_right (List.mem_cons_of_mem _)
      · exact Memory.mem_cell h

/-- A write keeps the canonical form. -/
theorem Memory.wf_write {m : Memory} (hm : Memory.wf m) (a : Nat) (b : Byte) : Memory.wf (Memory.write m a b) := by
  induction m with
  | nil => exact Memory.wf_cell hm (by simp)
  | cons p m ih =>
    obtain ⟨x, v⟩ := p
    obtain ⟨hv, hlt, hm'⟩ := Memory.wf_cons.1 hm
    simp only [Memory.write]
    split
    · refine Memory.wf_cons.2 ⟨hv, fun q hq => ?_, ih hm'⟩
      rcases Memory.mem_write hq with h | h
      · simp only [h]; assumption
      · exact hlt q h
    · split
      · subst x; exact Memory.wf_cell hm' hlt
      · refine Memory.wf_cell hm fun q hq => ?_
        rcases List.mem_cons.1 hq with h | h
        · subst h; simp only; omega
        · have := hlt q h; simp only at this; omega

/-- A read after a write: the written byte at its address, the old byte everywhere else. -/
theorem Memory.read_write {m : Memory} (hm : Memory.wf m) (a : Nat) (b : Byte) (a' : Nat) :
    Memory.read (Memory.write m a b) a' = if a' = a then b else Memory.read m a' := by
  induction m with
  | nil => exact Memory.read_cell (by simp) a'
  | cons p m ih =>
    obtain ⟨x, v⟩ := p
    obtain ⟨hv, hlt, hm'⟩ := Memory.wf_cons.1 hm
    simp only [Memory.write]
    split
    · rw [Memory.read_cons, Memory.read_cons, ih hm']
      split <;> split <;> first | rfl | omega
    · split
      · subst x
        rw [Memory.read_cell hlt, Memory.read_cons]
        split
        · rfl
        · rw [if_neg (by omega)]
      · refine Memory.read_cell (fun q hq => ?_) a'
        rcases List.mem_cons.1 hq with h | h
        · subst h; simp only; omega
        · have := hlt q h; simp only at this; omega

/-- The memory of every reset state is canonical. -/
theorem resetWith_key_wf (c : Config) : Memory.wf (State.resetWith c).key := Memory.wf_zeroed

theorem reset_key_wf : Memory.wf State.reset.key := resetWith_key_wf _

end Sys2Proof.Machine
end

