-- ==== Sys2Proof/Laws/Ops.lean ====
section
/-! SUPPORT. What each shared operation and each command can do, said once; later proofs cite these lemmas instead of
unfolding the operations. -/

namespace Sys2Proof.Machine

theorem errCodeValue_le (e : ErrCode) : (errCodeValue e).toNat ≤ 5 := by cases e <;> decide

theorem errCodeValue_injective {e e' : ErrCode} (h : errCodeValue e = errCodeValue e') : e = e' := by
  revert h; cases e <;> cases e' <;> decide

/-- The fields no command writes: the configuration, TIME, PENDING, OVERRUN and the model's own fields. -/
structure CommandFrame (s t : State) : Prop where
  config : t.config = s.config
  wasReset : t.wasReset = s.wasReset
  timeLo : t.timeLo = s.timeLo
  timeHi : t.timeHi = s.timeHi
  pending : t.pending = s.pending
  overrun : t.status.overrun = s.status.overrun
  host : t.host = s.host
  turns : t.turns = s.turns
  reads : t.reads = s.reads

theorem CommandFrame.refl (s : State) : CommandFrame s s := ⟨rfl, rfl, rfl, rfl, rfl, rfl, rfl, rfl, rfl⟩

theorem zeroKey_frame (b : Bool) (s : State) : CommandFrame s (zeroKey b s) :=
  ⟨rfl, rfl, rfl, rfl, rfl, rfl, rfl, rfl, rfl⟩

/-- KEY_CLEAR: one completion, of the state whose key lifetime has ended. -/
theorem exec_keyClear (s : State) : exec .keyClear s = .next (complete .ok (zeroKey false s)) := rfl

/-- B32_PUSH on a poisoned key. -/
theorem exec_b32Push_poisoned {s : State} (h : s.status.keyInvalid = true) (c : Byte) :
    exec (.b32Push c) s = .next (complete .keyPoisoned s) := by
  simp [exec, execB32Push, h]

/-- B32_PUSH of a code outside the alphabet. -/
theorem exec_b32Push_invalid {s : State} (h : s.status.keyInvalid = false) {c : Byte} (hc : b32val c = none) :
    exec (.b32Push c) s = .next (complete .invalidInput (zeroKey true s)) := by
  simp [exec, execB32Push, h, hc]

/-- B32_PUSH of an accepted character: the rest of the command is `pushValue`. -/
theorem exec_b32Push_some {s : State} (h : s.status.keyInvalid = false) {c : Byte} {v : BitVec 5}
    (hc : b32val c = some v) : exec (.b32Push c) s = pushValue v s := by
  simp [exec, execB32Push, h, hc]

/-- A push that completes no byte. -/
theorem pushValue_keep {s : State} (v : BitVec 5) (h : s.bitCnt.toNat ≤ 2) :
    pushValue v s = .next (complete .ok (keepBits (pushedBits s v) (pushedCount s) s)) := by
  have h8 : ¬ 8 ≤ pushedCount s := by unfold pushedCount; omega
  simp only [pushValue, if_neg h8]

/-- A push that would complete a byte beyond the capacity. -/
theorem pushValue_overflow {s : State} (v : BitVec 5) (h : 3 ≤ s.bitCnt.toNat)
    (hk : s.keyLen.toNat = s.config.keyMaxBytes) :
    pushValue v s = .next (complete .keyOverflow (zeroKey true s)) := by
  have h8 : 8 ≤ pushedCount s := by unfold pushedCount; omega
  simp only [pushValue, if_pos h8, if_pos hk]
  rfl

/-- A push that completes a byte. -/
theorem pushValue_append {s : State} (v : BitVec 5) (h : 3 ≤ s.bitCnt.toNat)
    (hk : s.keyLen.toNat ≠ s.config.keyMaxBytes) :
    pushValue v s = .next (complete .ok (keepBits (pushedBits s v) (pushedCount s - 8)
      (appendKeyByte (completedByte (pushedBits s v) (pushedCount s - 8)) s))) := by
  have h8 : 8 ≤ pushedCount s := by unfold pushedCount; omega
  simp only [pushValue, if_pos h8, if_neg hk]

/-- Everything a push of an accepted value can do. -/
theorem pushValue_cases (v : BitVec 5) (s : State) :
    (s.bitCnt.toNat ≤ 2 ∧
      pushValue v s = .next (complete .ok (keepBits (pushedBits s v) (pushedCount s) s))) ∨
    (3 ≤ s.bitCnt.toNat ∧ s.keyLen.toNat = s.config.keyMaxBytes ∧
      pushValue v s = .next (complete .keyOverflow (zeroKey true s))) ∨
    (3 ≤ s.bitCnt.toNat ∧ s.keyLen.toNat ≠ s.config.keyMaxBytes ∧
      pushValue v s = .next (complete .ok (keepBits (pushedBits s v) (pushedCount s - 8)
        (appendKeyByte (completedByte (pushedBits s v) (pushedCount s - 8)) s)))) := by
  by_cases h : s.bitCnt.toNat ≤ 2
  · exact .inl ⟨h, pushValue_keep v h⟩
  · have h3 : 3 ≤ s.bitCnt.toNat := by omega
    by_cases hk : s.keyLen.toNat = s.config.keyMaxBytes
    · exact .inr (.inl ⟨h3, hk, pushValue_overflow v h3 hk⟩)
    · exact .inr (.inr ⟨h3, hk, pushValue_append v h3 hk⟩)

/-- Everything B32_PUSH can do. -/
theorem exec_b32Push_cases (c : Byte) (s : State) :
    (s.status.keyInvalid = true ∧ exec (.b32Push c) s = .next (complete .keyPoisoned s)) ∨
    (s.status.keyInvalid = false ∧ b32val c = none ∧
      exec (.b32Push c) s = .next (complete .invalidInput (zeroKey true s))) ∨
    (s.status.keyInvalid = false ∧ ∃ v, b32val c = some v ∧ exec (.b32Push c) s = pushValue v s) := by
  by_cases h : s.status.keyInvalid = true
  · exact .inl ⟨h, exec_b32Push_poisoned h c⟩
  · have h' : s.status.keyInvalid = false := by simpa using h
    cases hc : b32val c with
    | none => exact .inr (.inl ⟨h', rfl, exec_b32Push_invalid h' hc⟩)
    | some v => exact .inr (.inr ⟨h', v, rfl, exec_b32Push_some h' hc⟩)

/-- The state a failing generate command leaves. -/
def generateFailed (e : ErrCode) (s : State) : State := complete e (zeroKey false (setResultValid false s))

/-- The state a successful generate command leaves, from the state with its registers written. -/
def generateDone (s : State) : State := complete .ok (zeroKey false (setResultValid true s))

theorem failGenerate_eq (e : ErrCode) (s : State) : failGenerate e s = .next (generateFailed e s) := rfl

theorem succeedGenerate_eq (s : State) : succeedGenerate s = .next (generateDone s) := rfl

theorem generateChecked_poisoned {s : State} (effect : State → State) (h : s.status.keyInvalid = true) :
    generateChecked effect s = .next (generateFailed .keyPoisoned s) := by
  simp [generateChecked, h, failGenerate_eq]

theorem generateChecked_empty {s : State} (effect : State → State) (h : s.status.keyInvalid = false)
    (hk : s.keyLen = 0) : generateChecked effect s = .next (generateFailed .crypto s) := by
  simp [generateChecked, h, hk, failGenerate_eq]

theorem generateChecked_ready {s : State} (effect : State → State) (h : GenerateReady s) :
    generateChecked effect s = .next (generateDone (effect s)) := by
  simp only [generateChecked, h.keyValid, if_neg h.keyNonempty, succeedGenerate_eq, Bool.false_eq_true, if_false]

/-- Everything the checks of a generate command can do. -/
theorem generateChecked_cases (effect : State → State) (s : State) :
    (s.status.keyInvalid = true ∧ generateChecked effect s = .next (generateFailed .keyPoisoned s)) ∨
    (s.status.keyInvalid = false ∧ s.keyLen = 0 ∧ generateChecked effect s = .next (generateFailed .crypto s)) ∨
    (GenerateReady s ∧ generateChecked effect s = .next (generateDone (effect s))) := by
  by_cases h : s.status.keyInvalid = true
  · exact .inl ⟨h, generateChecked_poisoned effect h⟩
  · have h' : s.status.keyInvalid = false := by simpa using h
    by_cases hk : s.keyLen = 0
    · exact .inr (.inl ⟨h', hk, generateChecked_empty effect h' hk⟩)
    · exact .inr (.inr ⟨⟨h', hk⟩, generateChecked_ready effect ⟨h', hk⟩⟩)

theorem exec_totpGen (s : State) : exec .totpGen s = generateChecked totpEffect s := rfl

theorem exec_hotpGen (s : State) : exec .hotpGen s = generateChecked hotpEffect s := rfl

theorem generateFailed_frame (e : ErrCode) (s : State) : CommandFrame s (generateFailed e s) :=
  ⟨rfl, rfl, rfl, rfl, rfl, rfl, rfl, rfl, rfl⟩

theorem totp_frame (s : State) : CommandFrame s (generateDone (totpEffect s)) :=
  ⟨rfl, rfl, rfl, rfl, rfl, rfl, rfl, rfl, rfl⟩

theorem hotp_frame (s : State) : CommandFrame s (generateDone (hotpEffect s)) :=
  ⟨rfl, rfl, rfl, rfl, rfl, rfl, rfl, rfl, rfl⟩

/-- Every command ends in a completion, and leaves the fields of `CommandFrame` alone. -/
theorem exec_completes (i : Instr) (s : State) :
    ∃ e u, exec i s = .next (complete e u) ∧ CommandFrame s (complete e u) := by
  have frame : ∀ {e u}, CommandFrame s u → CommandFrame s (complete e u) := fun h =>
    ⟨h.config, h.wasReset, h.timeLo, h.timeHi, h.pending, h.overrun, h.host, h.turns, h.reads⟩
  cases i with
  | keyClear => exact ⟨_, _, rfl, frame (zeroKey_frame _ _)⟩
  | b32Push c =>
    rcases exec_b32Push_cases c s with ⟨-, h⟩ | ⟨-, -, h⟩ | ⟨-, v, -, h⟩
    · exact ⟨_, _, h, frame (.refl s)⟩
    · exact ⟨_, _, h, frame (zeroKey_frame _ _)⟩
    · rcases pushValue_cases v s with ⟨-, h'⟩ | ⟨-, -, h'⟩ | ⟨-, -, h'⟩
      all_goals
        exact ⟨_, _, h.trans h', frame ⟨rfl, rfl, rfl, rfl, rfl, rfl, rfl, rfl, rfl⟩⟩
  | totpGen =>
    rcases generateChecked_cases totpEffect s with ⟨-, h⟩ | ⟨-, -, h⟩ | ⟨-, h⟩
    · exact ⟨_, _, h, generateFailed_frame _ s⟩
    · exact ⟨_, _, h, generateFailed_frame _ s⟩
    · exact ⟨_, _, h, totp_frame s⟩
  | hotpGen =>
    rcases generateChecked_cases hotpEffect s with ⟨-, h⟩ | ⟨-, -, h⟩ | ⟨-, h⟩
    · exact ⟨_, _, h, generateFailed_frame _ s⟩
    · exact ⟨_, _, h, generateFailed_frame _ s⟩
    · exact ⟨_, _, h, hotp_frame s⟩

/-- A word that is no command completes with ERRCODE 5 and does nothing else. -/
theorem execPending_error {s : State} {e : IllegalWord} (h : decode s.pending = .error e) :
    execPending s = .next (complete .illegalCommand s) := by
  simp [execPending, h, execIllegal]

theorem execPending_ok {s : State} {i : Instr} (h : decode s.pending = .ok i) : execPending s = exec i s := by
  simp [execPending, h]

/-- Whatever word is pending, its execution ends in a completion within the frame. -/
theorem execPending_completes (s : State) :
    ∃ e u, execPending s = .next (complete e u) ∧ CommandFrame s (complete e u) := by
  cases h : decode s.pending with
  | ok i => rw [execPending_ok h]; exact exec_completes i s
  | error e => exact ⟨_, _, execPending_error h, rfl, rfl, rfl, rfl, rfl, rfl, rfl, rfl, rfl⟩

end Sys2Proof.Machine
end

