-- ==== Sys2Proof/Laws/Step.lean ====
section
/-! SUPPORT. What the bus, the HOST's turn, the ENGINE's turn and a step can do, said once. -/

namespace Sys2Proof.Machine

/-- The admitted accesses are the aligned 32-bit ones inside the window (20_memory.md R62). -/
theorem admit_ok {c : Config} {addr size off : Nat} :
    admittedOffset c addr size = .ok off ↔ size = 4 ∧ addr = c.base + off ∧ off < 0x100 ∧ off % 4 = 0 := by
  unfold admittedOffset
  split
  · simp; omega
  · split
    · simp; omega
    · split
      · simp; omega
      · simp only [Except.ok.injEq]; omega

theorem admit_offset (c : Config) {off : Nat} (h : off < 0x100) (h4 : off % 4 = 0) :
    admittedOffset c (c.base + off) 4 = .ok off := admit_ok.2 ⟨rfl, rfl, h, h4⟩

/-- An access is refused before the first reset, and for no other reason than R62's after it. -/
theorem busOffset_ok {s : State} {addr size off : Nat} :
    busOffset s addr size = .ok off ↔
      s.wasReset = true ∧ size = 4 ∧ addr = s.config.base + off ∧ off < 0x100 ∧ off % 4 = 0 := by
  unfold busOffset
  cases s.wasReset
  · simp
  · simpa using admit_ok

theorem busRead_ok {s : State} {addr size : Nat} {v : Word} :
    busRead s addr size = .ok v ↔ ∃ off, busOffset s addr size = .ok off ∧ v = readOffset s off := by
  unfold busRead
  cases busOffset s addr size <;> simp [Except.map, eq_comm]

theorem busWrite_ok {s t : State} {addr size : Nat} {v : Word} :
    busWrite s addr size v = .ok t ↔ ∃ off, busOffset s addr size = .ok off ∧ t = writeOffset s off v := by
  unfold busWrite
  cases busOffset s addr size <;> simp [Except.map, eq_comm]

/-- Bit 0 of STATUS is BUSY (10_state.md R25). -/
theorem statusWord_busy (f : Status) : (statusWord f).getLsbD 0 = f.busy := by
  unfold statusWord
  rw [BitVec.getLsbD_append, if_pos (by decide)]
  cases f.busy <;> rfl

theorem readOffset_status (s : State) : readOffset s statusOffset = statusWord s.status := rfl

/-- The fields no bus write changes: hidden key state, the result registers, KEY_LEN and BITCNT, the configuration and
the model's own fields. -/
structure WriteFrame (s t : State) : Prop where
  config : t.config = s.config
  wasReset : t.wasReset = s.wasReset
  keyLen : t.keyLen = s.keyLen
  bitCnt : t.bitCnt = s.bitCnt
  results : t.results = s.results
  key : t.key = s.key
  bitBuf : t.bitBuf = s.bitBuf
  keyInvalid : t.status.keyInvalid = s.status.keyInvalid
  resultValid : t.status.resultValid = s.status.resultValid
  errCode : t.status.errCode = s.status.errCode
  host : t.host = s.host
  turns : t.turns = s.turns
  reads : t.reads = s.reads

theorem writeReg_frame (v : Word) (s : State) (r : Reg) : WriteFrame s (writeReg v s r) := by
  cases r <;> exact ⟨rfl, rfl, rfl, rfl, rfl, rfl, rfl, rfl, rfl, rfl, rfl, rfl, rfl⟩

theorem writeOffset_frame (s : State) (off : Nat) (v : Word) : WriteFrame s (writeOffset s off v) := by
  unfold writeOffset
  split
  · exact ⟨rfl, rfl, rfl, rfl, rfl, rfl, rfl, rfl, rfl, rfl, rfl, rfl, rfl⟩
  · split
    · exact writeReg_frame v s _
    · exact ⟨rfl, rfl, rfl, rfl, rfl, rfl, rfl, rfl, rfl, rfl, rfl, rfl, rfl⟩

theorem writeOffset_busy {s : State} (h : s.status.busy = true) (off : Nat) (v : Word) :
    writeOffset s off v = { s with status := { s.status with overrun := true } } := by
  simp [writeOffset, h]

theorem writeOffset_reg {s : State} (h : s.status.busy = false) {off : Nat} {r : Reg} (hr : regAt off = some r)
    (v : Word) : writeOffset s off v = writeReg v s r := by
  simp [writeOffset, h, hr]

theorem writeOffset_reserved {s : State} (h : s.status.busy = false) {off : Nat} (hr : regAt off = none) (v : Word) :
    writeOffset s off v = s := by
  simp [writeOffset, h, hr]

/-- Everything one HOST operation can do when it answers a next state. -/
theorem hostOp_next {op : HostOp} {s t : State} (h : hostOp op s = .next t) :
    (∃ addr size off, op = .read addr size ∧ busOffset s addr size = .ok off ∧
      t = { s with reads := readOffset s off :: s.reads }) ∨
    (∃ addr size v off, op = .write addr size v ∧ busOffset s addr size = .ok off ∧ t = writeOffset s off v) ∨
    (op = .wait ∧ s.wasReset = true ∧ t = if s.status.busy then { s with host := .wait :: s.host } else s) ∨
    (op = .reset ∧ t = applyReset s) := by
  cases op with
  | read addr size =>
    simp only [hostOp] at h
    split at h
    · obtain ⟨off, ho, rfl⟩ := busRead_ok.1 ‹_›
      cases h
      exact .inl ⟨addr, size, off, rfl, ho, rfl⟩
    · cases h
  | write addr size v =>
    simp only [hostOp] at h
    split at h
    · obtain ⟨off, ho, rfl⟩ := busWrite_ok.1 ‹_›
      cases h
      exact .inr (.inl ⟨addr, size, v, off, rfl, ho, rfl⟩)
    · cases h
  | wait =>
    simp only [hostOp] at h
    split at h
    · obtain ⟨off, ho, rfl⟩ := busRead_ok.1 ‹_›
      obtain ⟨hw, -, ha, -, -⟩ := busOffset_ok.1 ho
      obtain rfl : off = statusOffset := by omega
      rw [readOffset_status, statusWord_busy] at h
      cases h
      exact .inr (.inr (.inl ⟨rfl, hw, rfl⟩))
    · cases h
  | reset => cases h; exact .inr (.inr (.inr ⟨rfl, rfl⟩))

/-- WAIT's single poll, after a reset. -/
theorem hostOp_wait {s : State} (h : s.wasReset = true) :
    hostOp .wait s = .next (if s.status.busy then { s with host := .wait :: s.host } else s) := by
  have ho : busOffset s (s.config.base + statusOffset) 4 = .ok statusOffset :=
    busOffset_ok.2 ⟨h, rfl, rfl, by decide, by decide⟩
  simp only [hostOp, busRead, ho, Except.map, readOffset_status, statusWord_busy]

/-- A write at an admitted offset, after a reset. -/
theorem hostOp_wr {s : State} (h : s.wasReset = true) {off : Nat} (hoff : off < 0x100) (h4 : off % 4 = 0) (v : Word) :
    hostOp (wr s.config off v) s = .next (writeOffset s off v) := by
  have ho : busOffset s (s.config.base + off) 4 = .ok off := busOffset_ok.2 ⟨h, rfl, rfl, hoff, h4⟩
  simp only [wr, hostOp, busWrite, ho, Except.map]

/-- A read at an admitted offset, after a reset. -/
theorem hostOp_rd {s : State} (h : s.wasReset = true) {off : Nat} (hoff : off < 0x100) (h4 : off % 4 = 0) :
    hostOp (rd s.config off) s = .next { s with reads := readOffset s off :: s.reads } := by
  have ho : busOffset s (s.config.base + off) 4 = .ok off := busOffset_ok.2 ⟨h, rfl, rfl, hoff, h4⟩
  simp only [rd, hostOp, busRead, ho, Except.map]

/-- Everything the ENGINE's turn can do when it answers a next state. -/
theorem engineStep_next {s t : State} (h : engineStep s = .next t) :
    s.wasReset = true ∧ ((s.status.busy = true ∧ execPending s = .next t) ∨ (s.status.busy = false ∧ t = s)) := by
  unfold engineStep at h
  cases hw : s.wasReset
  · simp [hw] at h
  · cases hb : s.status.busy
    · simp only [hw, hb, Bool.not_true, Bool.false_eq_true, if_false] at h
      cases h
      exact ⟨rfl, .inr ⟨rfl, rfl⟩⟩
    · simp only [hw, hb, Bool.not_true, Bool.false_eq_true, if_false, if_true] at h
      exact ⟨rfl, .inl ⟨rfl, h⟩⟩

theorem engineStep_busy {s : State} (hw : s.wasReset = true) (hb : s.status.busy = true) :
    engineStep s = execPending s := by
  simp [engineStep, hw, hb]

theorem step_engine {s : State} (h : nextAgent s = .engine) : step s = engineStep (popTurn s) := by
  simp [step, h]

theorem step_host {s : State} (h : nextAgent s = .host) : step s = hostStep (popTurn s) := by
  simp [step, h]

/-- The ENGINE's turn executes the pending word. -/
theorem step_engineRuns {s : State} (h : EngineRuns s) : step s = execPending (popTurn s) := by
  exact (step_engine h.turn).trans (engineStep_busy (s := popTurn s) h.wasReset h.busy)

theorem hostStep_nil {s : State} (h : s.host = []) : hostStep s = .next s := by
  simp [hostStep, h]

theorem hostStep_cons {s : State} {op : HostOp} {ops : List HostOp} (h : s.host = op :: ops) :
    hostStep s = hostOp op { s with host := ops } := by
  simp [hostStep, h]

/-- The HOST's turn takes its next operation. -/
theorem step_hostIssues {op : HostOp} {s : State} (h : HostIssues op s) : step s = hostOp op (afterIssue s) := by
  obtain ⟨ops, hops⟩ := List.head?_eq_some_iff.1 h.next
  rw [step_host h.turn, hostStep_cons (show (popTurn s).host = op :: ops from hops)]
  simp [afterIssue, popTurn, hops]

/-- Everything a step can do when it answers a next state. -/
theorem step_next {s t : State} (h : step s = .next t) :
    (EngineRuns s ∧ execPending (popTurn s) = .next t) ∨
    (nextAgent s = .engine ∧ s.wasReset = true ∧ s.status.busy = false ∧ t = popTurn s) ∨
    (nextAgent s = .host ∧ s.host = [] ∧ t = popTurn s) ∨
    (nextAgent s = .host ∧ ∃ op, s.host.head? = some op ∧ hostOp op (afterIssue s) = .next t) := by
  cases ha : nextAgent s with
  | engine =>
    rw [step_engine ha] at h
    obtain ⟨hw, ⟨hb, h⟩ | ⟨hb, rfl⟩⟩ := engineStep_next h
    · exact .inl ⟨⟨hw, ha, hb⟩, h⟩
    · exact .inr (.inl ⟨rfl, hw, hb, rfl⟩)
  | host =>
    rw [step_host ha] at h
    cases hh : s.host with
    | nil =>
      rw [hostStep_nil (s := popTurn s) hh] at h
      injection h with h
      exact .inr (.inr (.inl ⟨rfl, rfl, h.symm⟩))
    | cons op ops =>
      rw [hostStep_cons (s := popTurn s) hh] at h
      refine .inr (.inr (.inr ⟨rfl, op, rfl, ?_⟩))
      simpa [afterIssue, popTurn, hh] using h

@[simp] theorem run_zero (s : State) : run 0 s = .next s := rfl

theorem run_succ {s t : State} (h : step s = .next t) (k : Nat) : run (k + 1) s = run k t := by
  simp [run, h]

theorem run_succ_refused {s : State} {r : Refusal} (h : step s = .refused r) (k : Nat) :
    run (k + 1) s = .refused r := by
  simp [run, h]

theorem run_eq_core_run (k : Nat) (s : State) : run k s = Sys2Proof.core.run k s := by
  induction k generalizing s with
  | zero => rfl
  | succ k ih =>
    cases h : step s with
    | next t => rw [run_succ h, ih]; simp only [Host.Core.run, core, h]
    | fault f => exact nomatch f
    | refused r => rw [run_succ_refused h]; simp only [Host.Core.run, core, h]

end Sys2Proof.Machine
end

