-- ==== Sys2Proof/Laws/Arith.lean ====
section
/-! SUPPORT. The bit operations of the commands as arithmetic on numbers. -/

namespace Sys2Proof.Machine

/-- A concatenation of bit fields, as a number. -/
theorem toNat_append {m n : Nat} (x : BitVec m) (y : BitVec n) : (x ++ y).toNat = x.toNat * 2 ^ n + y.toNat := by
  rw [BitVec.toNat_append, Nat.shiftLeft_eq, Nat.mul_comm, Nat.two_pow_add_eq_or_of_lt y.isLt]

/-- A mask of low ones is a remainder. -/
theorem and_low_ones (n k : Nat) : n &&& (1 <<< k - 1) = n % 2 ^ k := by
  rw [Nat.one_shiftLeft, Nat.and_two_pow_sub_one_eq_mod]

/-- The two halves of a counter written by TOTP_GEN read back as that counter. -/
@[simp] theorem counter_setCounter (c : DWord) (s : State) : counter (setCounter c s) = c := by
  apply BitVec.eq_of_toNat_eq
  have := c.isLt
  simp only [counter, setCounter, toNat_append, BitVec.extractLsb'_toNat, Nat.shiftRight_eq_div_pow]
  omega

/-- Five bits shifted in, as a number (41_base32.md R106). -/
theorem pushedBits_eq (s : State) (v : BitVec 5) : pushedBits s v = s.bitBuf.toNat * 2 ^ 5 + v.toNat := by
  unfold pushedBits
  rw [Nat.shiftLeft_eq, Nat.mul_comm, Nat.two_pow_add_eq_or_of_lt v.isLt]

/-- The bits kept, as a remainder, for the counts a push leaves (10_state.md R48). -/
theorem keepBits_bitBuf_toNat (buf : Nat) {cnt : Nat} (h : cnt ≤ 7) (s : State) :
    (keepBits buf cnt s).bitBuf.toNat = buf % 2 ^ cnt := by
  have h1 : buf % 2 ^ cnt < 2 ^ cnt := Nat.mod_lt _ (Nat.two_pow_pos cnt)
  have h2 : 2 ^ cnt ≤ 2 ^ 7 := Nat.pow_le_pow_right (by decide) h
  rw [keepBits_bitBuf, and_low_ones, BitVec.toNat_ofNat, Nat.mod_eq_of_lt (by omega)]

theorem keepBits_bitCnt_toNat (buf : Nat) {cnt : Nat} (h : cnt ≤ 7) (s : State) :
    (keepBits buf cnt s).bitCnt.toNat = cnt := by
  rw [keepBits_bitCnt, BitVec.toNat_ofNat, Nat.mod_eq_of_lt (by omega)]

/-- The byte a push completes, as a number (41_base32.md R106). -/
theorem completedByte_toNat (buf cnt : Nat) : (completedByte buf cnt).toNat = buf / 2 ^ cnt % 2 ^ 8 := by
  unfold completedByte
  rw [BitVec.toNat_ofNat, show (0xFF : Nat) = 2 ^ 8 - 1 by rfl, Nat.and_two_pow_sub_one_eq_mod, Nat.mod_mod,
    Nat.shiftRight_eq_div_pow]

/-- A decoded word is legal, and the only words with an error are the others (30_encoding.md R85, R90). -/
theorem decode_isOk_iff_legal (w : Word) : (∃ i, decode w = .ok i) ↔ legal w = true := by
  unfold decode legal withoutOperand
  by_cases hr : rsvdField w = 0 <;> by_cases ha : argField w = 0 <;> by_cases h1 : opField w = 1 <;>
    by_cases h2 : opField w = 2 <;> by_cases h3 : opField w = 3 <;> by_cases h4 : opField w = 4 <;>
    simp_all

end Sys2Proof.Machine
end

