-- ==== Sys2Proof/Laws/PerInstr.lean ====
section
/-! SUPPORT. Statements made per instruction: the family EncodedRow, that the word of every instruction is selected by
the opcode-table row of its mnemonic (30_encoding.md R84). -/

namespace Sys2Proof.Laws.EncodedRow

/-- The row of the opcode map with the instruction's mnemonic selects its word, and the instruction is well formed. -/
def Statement (i : Instr) : Prop :=
  i.wf = true ∧ ∃ r ∈ opcodeMap, r.mnemonic = i.mnemonic ∧ rowSelects r (encode i) = true

theorem keyClear : Statement .keyClear := by unfold Statement; decide

theorem b32Push (c : Byte) : Statement (.b32Push c) := by
  refine ⟨rfl, ⟨"B32_PUSH", 0x00000002, 0xFFFF00FF⟩, by decide, rfl, ?_⟩
  revert c
  decide

theorem totpGen : Statement .totpGen := by unfold Statement; decide

theorem hotpGen : Statement .hotpGen := by unfold Statement; decide

end Sys2Proof.Laws.EncodedRow
end

