-- ==== Sys2Proof/Tests/Slice0.lean ====
section
/-! SUPPORT. Tests of single steps against the worked values of spec/95_test_vectors.md, and for every statement with
hypotheses concrete states that meet them. Expected values are the spec's, never the model's own. -/

namespace Sys2Proof.Tests

open Sys2Proof Sys2Proof.Machine

/-! ### Helpers -/

/-- The next state of an outcome. -/
def nextState : Host.Outcome State Fault Refusal → Option State
  | .next s => some s
  | .fault _ => none
  | .refused _ => none

/-- A field of the next state. -/
def after {α : Type} (f : State → α) (o : Host.Outcome State Fault Refusal) : Option α := (nextState o).map f

/-- The reason of a refusal. -/
def refusalOf : Host.Outcome State Fault Refusal → Option Refusal
  | .refused r => some r
  | .next _ => none
  | .fault _ => none

/-- `s` with the word `w` pending. -/
def pendingIn (w : Word) (s : State) : State := accept w s

/-- `s` with one HOST operation to issue. -/
def issuing (op : HostOp) (s : State) : State := { s with host := [op] }

/-- `s` with the given KEY_LEN, BITCNT and BITBUF. -/
def holding (n : BitVec 16) (cnt : BitVec 4) (buf : BitVec 7) (s : State) : State :=
  { s with keyLen := n, bitCnt := cnt, bitBuf := buf }

/-- A block with KEY_MAX_BYTES = 8 at BASE 0x1000, after reset. -/
def small : State := .resetWith ⟨8, 0x1000⟩

/-- A state whose key is the byte 0x66, the end of PUSH_SECRET "MY" (B32-L1). -/
def keyed : State := { holding 1 2 0 small with key := [(0, 0x66)] }

/-- A state whose key is poisoned (41_base32.md R107). -/
def poisoned : State := poisonKey small

/-- A state whose key buffer is full, all bytes zero, with `cnt` bits left over. -/
def full (cnt : BitVec 4) : State := holding 8 cnt 0 small

/-- The 20 bytes of the RFC secret (95_test_vectors.md section 2). -/
def rfcKey : Memory :=
  (List.range 20).map fun i => (i, BitVec.ofNat 8 (0x30 + (i + 1) % 10))

/-- A state with the RFC secret as its key. -/
def rfc : State := { State.reset with key := rfcKey, keyLen := 20 }

theorem engineRuns_iff (s : State) :
    EngineRuns s ↔ s.wasReset = true ∧ nextAgent s = .engine ∧ s.status.busy = true :=
  ⟨fun h => ⟨h.1, h.2, h.3⟩, fun h => ⟨h.1, h.2.1, h.2.2⟩⟩

theorem hostIssues_iff (op : HostOp) (s : State) :
    HostIssues op s ↔ s.wasReset = true ∧ nextAgent s = .host ∧ s.host.head? = some op :=
  ⟨fun h => ⟨h.1, h.2, h.3⟩, fun h => ⟨h.1, h.2.1, h.2.2⟩⟩

theorem generateReady_iff (s : State) : GenerateReady s ↔ s.status.keyInvalid = false ∧ s.keyLen ≠ 0 :=
  ⟨fun h => ⟨h.1, h.2⟩, fun h => ⟨h.1, h.2⟩⟩

theorem keyIsClear_reset (c : Config) : KeyIsClear (State.resetWith c) := ⟨rfl, rfl, rfl, rfl, rfl⟩

/-- A state with at most one listed key byte, below KEY_LEN, is legal if its other fields are. -/
theorem legal_of_checks {s : State}
    (h : (s.bitCnt.toNat ≤ 7 ∧ s.bitBuf.toNat < 2 ^ s.bitCnt.toNat ∧ s.keyLen.toNat ≤ s.config.keyMaxBytes) ∧
      (s.status.keyInvalid = true → s.keyLen = 0 ∧ s.bitCnt = 0 ∧ s.bitBuf = 0) ∧
      (s.status.busy = true → s.status.done = false) ∧
      s.results.code.toNat ≤ 999999 ∧ s.results.remain.toNat ≤ 30 ∧ s.status.errCode.toNat ≤ 5)
    (hk : s.key = [] ∨ ∃ b, b ≠ 0 ∧ s.key = [(0, b)] ∧ s.keyLen ≠ 0) : Legal s := by
  obtain ⟨⟨h1, h2, h3⟩, h4, h5, h6, h7, h8⟩ := h
  refine ⟨h1, h2, h3, ?_, ?_, h4, h5, h6, h7, h8⟩
  · rcases hk with hk | ⟨b, hb, hk, -⟩ <;> simp [hk, Memory.wf]
    exact hb
  · intro i hi
    rcases hk with hk | ⟨b, -, hk, hn⟩
    · simp only [hk]; rfl
    · have : s.keyLen.toNat ≠ 0 := fun h0 => hn (BitVec.eq_of_toNat_eq (by simpa using h0))
      have : ¬ (0 = i) := by omega
      simp [hk, Memory.read, this]

theorem legal_small : Legal small := legal_of_checks (by decide) (.inl rfl)
theorem legal_poisoned : Legal poisoned := legal_of_checks (by decide) (.inl rfl)
theorem legal_keyed : Legal keyed := legal_of_checks (by decide) (.inr ⟨0x66, by decide, rfl, by decide⟩)
theorem legal_full2 : Legal (full 2) := legal_of_checks (by decide) (.inl rfl)
theorem legal_full3 : Legal (full 3) := legal_of_checks (by decide) (.inl rfl)
theorem legal_holding3 : Legal (holding 7 3 0 small) := legal_of_checks (by decide) (.inl rfl)

/-! ### WellFormed and Decode -/

theorem test_wellFormed_refuses_capacity_zero : ¬ Config.wf ⟨0, 0⟩ := by decide
theorem test_wellFormed_refuses_capacity_above_65535 : ¬ Config.wf ⟨65536, 0⟩ := by decide
theorem test_wellFormed_accepts_the_bounds : Config.wf ⟨1, 0⟩ ∧ Config.wf ⟨65535, 0⟩ ∧ Config.default.wf := by decide

/-- ENC-6 to ENC-11, ENC-14: no command, each with the field that makes it so. -/
theorem test_illegal_words :
    [0x00000000, 0x00000005, 0x000000FF, 0x00000101, 0x00010003, 0x80004102, 0xFFFFFFFF].map
        (fun w : Word => match decode w with | .ok _ => none | .error e => some e) =
      [some .operationReserved, some .operationReserved, some .operationReserved, some .argumentNonzero,
       some .reservedFieldNonzero, some .reservedFieldNonzero, some .reservedFieldNonzero] := by decide

/-- ENC-1 and 30_encoding.md R84, bit by bit. -/
theorem test_decode_keyClear :
    (decode 0b0000000000000000_00000000_00000001).toOption = some .keyClear := by decide
/-- ENC-2. -/
theorem test_decode_b32Push :
    (decode 0b0000000000000000_01000111_00000010).toOption = some (.b32Push 0x47) := by decide
/-- ENC-4. -/
theorem test_decode_totpGen :
    (decode 0b0000000000000000_00000000_00000011).toOption = some .totpGen := by decide
/-- ENC-5. -/
theorem test_decode_hotpGen :
    (decode 0b0000000000000000_00000000_00000100).toOption = some .hotpGen := by decide
theorem test_encode_words :
    [Instr.keyClear, .b32Push 0x50, .totpGen, .hotpGen].map encode =
      [0x00000001, 0x00005002, 0x00000003, 0x00000004] := by decide

/-! ### Commands -/

/-- B32-P2: KEY_CLEAR lifts the poison; ERRCODE 0. -/
theorem test_keyClear_lifts_poison :
    after (fun t => (t.status.keyInvalid, statusWord t.status)) (step (pendingIn 0x00000001 poisoned)) =
      some (false, 0x00000002) := by decide

/-- B32-K1: KEY_CLEAR in the middle of a secret (KEY_LEN 1, BITCNT 7). -/
theorem test_keyClear_mid_secret :
    after (fun t => (t.keyLen, t.bitCnt, t.bitBuf, t.key)) (exec .keyClear { keyed with bitCnt := 7, bitBuf := 0x22 }) =
      some (0, 0, 0, []) := by decide

/-- B32-T1, push 4: 'D' over BITBUF 0b0100010 appends 0x44 and leaves 0b0011. -/
theorem test_push_completes_a_byte :
    after (fun t => (t.key, t.keyLen, t.bitCnt, t.bitBuf)) (exec (.b32Push 0x44) (holding 1 7 0b0100010 small)) =
      some ([(1, 0x44)], 2, 4, 0b0011) := by decide

/-- B32-OV2: the 14th character completes no byte at a full buffer; the 15th overflows. -/
theorem test_push_at_capacity :
    after (fun t => (t.keyLen, t.bitCnt, t.status.errCode)) (exec (.b32Push 0x41) (full 1)) = some (8, 6, 0) ∧
    after (fun t => (t.keyLen, t.bitCnt, statusWord t.status)) (exec (.b32Push 0x41) (full 6)) =
      some (0, 0, 0x00000406) := by decide

/-- GEN-6238-1: TIME 59000 ms gives CTR 1, CODE 287082, REMAIN 1. -/
theorem test_totpGen_rfc6238 :
    after (fun t => ([t.ctrHi, t.ctrLo, t.results.hash0, t.results.codeStr0, statusWord t.status],
        t.results.code, t.results.codeStr1, t.results.remain)) (exec .totpGen { rfc with timeLo := 0x0000E678 }) =
      some ([0, 1, 0x75A48A19, 0x32383730, 0x00000012], 287082, 0x3832, 1) := by decide +kernel

/-- ERR-1: an empty secret. -/
theorem test_totpGen_empty_key :
    after (fun t => statusWord t.status) (exec .totpGen State.reset) = some 0x00000202 := by decide

/-- GEN-4226-0: CTR 0. -/
theorem test_hotpGen_rfc4226 :
    after (fun t => ([t.results.hash0, t.results.hash1, t.results.hash2, t.results.hash3, t.results.hash4],
        t.results.offset, t.results.trunc, t.results.code, t.results.remain)) (exec .hotpGen rfc) =
      some ([0xCC93CF18, 0x508D9493, 0x4C64B65D, 0x8BA7667F, 0xB7CDE4B0], 0, 0x4C93CF18, 0xB8618, 0) := by
  decide +kernel

/-- PRI-1: a poisoned key is reported before an empty one. -/
theorem test_hotpGen_poisoned :
    after (fun t => (t.status.errCode, t.status.keyInvalid)) (exec .hotpGen poisoned) = some (3, false) := by decide

/-- PRI-3: an illegal word is reported before the poison, which stays. -/
theorem test_illegal_word_on_poisoned_key :
    after (fun t => (t.status.errCode, t.status.keyInvalid)) (step (pendingIn 0x00010003 poisoned)) =
      some (5, true) := by decide

/-! ### Functions -/

/-- SHA-1 and SHA-2 of 95_test_vectors.md section 3.4. -/
theorem test_sha1_abc :
    (be32 (sha1 [0x61, 0x62, 0x63]) 0, be32 (sha1 [0x61, 0x62, 0x63]) 16) = (0xA9993E36, 0x9CD0D89D) := by
  decide +kernel
theorem test_sha1_empty : (be32 (sha1 []) 0, be32 (sha1 []) 16) = (0xDA39A3EE, 0xAFD80709) := by decide +kernel

/-- HMAC-5: a 70-byte key is hashed first. -/
theorem test_hmac_long_key :
    be32 (hmacSha1 ((List.range 70).map (BitVec.ofNat 8)) (be64 0)) 0 = 0x1D00F73A := by decide +kernel

/-- TR-1: offset 15, sign bit masked, leading zeros. -/
theorem test_truncation_at_offset_15 :
    (let q := writeResults (List.replicate 15 0x00 ++ [0x80, 0x00, 0x00, 0x05, 0x0F]) .cleared
     (q.offset, q.trunc, q.code, q.codeStr0, q.codeStr1)) = (15, 5, 5, 0x30303030, 0x3035) := by decide

/-- TR-4: the code 1000000 renders as "000000". -/
theorem test_truncation_modulo_a_million :
    (let q := writeResults ([0x00, 0x80, 0x0F, 0x42, 0x40] ++ List.replicate 14 0x00 ++ [0x01]) .cleared
     (q.offset, q.trunc, q.code, q.codeStr0, q.codeStr1)) = (1, 0x000F4240, 0, 0x30303030, 0x3030) := by decide

/-- TM-10, TM-11: TIME is unsigned. -/
theorem test_time_is_unsigned :
    (timeCounter 0x8000000000000000, remainingSeconds 0x8000000000000000) = (0x0001179EC9CBD821, 5) ∧
    (timeCounter 0xFFFFFFFFFFFFFFFF, remainingSeconds 0xFFFFFFFFFFFFFFFF) = (0x00022F3D9397B043, 9) := by decide

/-- B32-RT3: "foobar". -/
theorem test_base32_encoder :
    base32Encode [0x66, 0x6F, 0x6F, 0x62, 0x61, 0x72] =
      [0x4D, 0x5A, 0x58, 0x57, 0x36, 0x59, 0x54, 0x42, 0x4F, 0x49] := by decide

/-- W1: '1' is outside the alphabet. -/
theorem test_source_decoder_rejects :
    sourceDecode [0x41, 0x42, 0x43, 0x44, 0x45, 0x46, 0x47, 0x31] = none := by decide

/-- 30_encoding.md R91: the example of the numeral operand. -/
theorem test_assembled_numeral :
    assemble ['B', '3', '2', '_', 'P', 'U', 'S', 'H', ' ', '0', 'x', '4', '7'] = some 0x00004702 := by decide

/-! ### The register window and the reset -/

/-- BUS-9: W1C clears DONE and OVERRUN only. -/
theorem test_status_write_one_to_clear :
    (let f : Status := ⟨false, true, true, true, true, 3⟩
     (statusWord f, statusWord (statusWrite 0xFFFFFFFF f))) = (0x0000031E, 0x00000314) := by decide

/-- BUS-10: a write while BUSY is dropped and sets OVERRUN. -/
theorem test_write_while_busy :
    after (fun t => (t.timeLo, statusWord t.status))
        (step { issuing (wr small.config 0x08 5) (pendingIn 0x00000003 small) with turns := [.host] }) =
      some (0, 0x00000009) := by decide

/-- BUS-13: widths and offsets that are refused. -/
theorem test_refused_accesses :
    refusalOf (step (issuing (.read 0x1000 2) small)) = some .busWidth ∧
    refusalOf (step (issuing (.read 0x1100 4) small)) = some .busWindow ∧
    refusalOf (step (issuing (.write 0x1002 4 0) small)) = some .busAlignment := by decide

/-- RST-2: a reset cancels the pending command. -/
theorem test_reset_cancels :
    after (fun t => (t.status, t.results, t.pending, t.keyLen))
        (step { issuing .reset (pendingIn 0x00000003 keyed) with turns := [.host] }) =
      some (.cleared, .cleared, 0, 0) := by decide

/-! ### Witnesses: states that meet the hypotheses of the statements -/

theorem witness_DecodeAndEncodeAgree : ∀ i ∈ [Instr.keyClear, .b32Push 0xFF, .totpGen, .hotpGen], i.wf = true := by
  decide

theorem witness_EachLegalWordSelectsOneRow :
    ([0x00000001, 0x00000002, 0x0000FF02, 0x00000003, 0x00000004].all fun w =>
      opcodeMap.any fun r => rowSelects r w) = true := by decide

theorem witness_StepExecutesThePendingCommand :
    ∀ i ∈ [Instr.keyClear, .b32Push 0x41, .totpGen, .hotpGen],
      EngineRuns (pendingIn (encode i) small) ∧ i.wf = true ∧
        (decode (pendingIn (encode i) small).pending).toOption = some i := by
  simp only [engineRuns_iff]; decide

theorem witness_StepAfterFetchWordExecutesIt :
    decodeTableWord 32 0x00000001 = some .keyClear ∧ decodeTableWord 32 0x0000FF02 = some (.b32Push 0xFF) ∧
    decodeTableWord 8 0x03 = some .totpGen ∧ decodeTableWord 32 0x00000004 = some .hotpGen := by decide

theorem witness_IllegalWordOnlyCompletes :
    [0x00000000, 0x00000005, 0x00000101, 0x80004102].map legal = [false, false, false, false] ∧
    HostIssues (wr small.config 0x00 0x00000101) (issuing (wr small.config 0x00 0x00000101) small) ∧
    small.status.busy = false ∧
    EngineRuns (pendingIn 0x00000101 small) ∧ (pendingIn 0x00000101 small).pending = 0x00000101 := by
  simp only [engineRuns_iff, hostIssues_iff]; decide

/-- Each branch of the outcome's case distinction is taken by a state in which the ENGINE runs. -/
theorem witness_OutcomeIsTheFirstCheckThatApplies :
    (∀ p ∈ [(0x00000000#32, poisoned), (0x00000001, poisoned), (0x00004102, poisoned), (0x00003102, small),
        (0x00004102, full 3), (0x00004102, full 2), (0x00000003, poisoned), (0x00000003, small), (0x00000003, keyed),
        (0x00000004, poisoned), (0x00000004, small), (0x00000004, keyed)],
      EngineRuns (pendingIn p.1 p.2)) := by
  simp only [engineRuns_iff]; decide

theorem witness_EngineTurnFrame :
    nextAgent (pendingIn 0x00000001 keyed) = .engine ∧ ∃ t, step (pendingIn 0x00000001 keyed) = .next t :=
  ⟨by decide, _, rfl⟩

/-- The codes at the ends of the three ranges, and next to them. -/
theorem witness_CharacterValueOfEveryCode :
    (∀ c ∈ [0x41#8, 0x5A#8], 0x41 ≤ c.toNat ∧ c.toNat ≤ 0x5A) ∧
    (∀ c ∈ [0x61#8, 0x7A#8], 0x61 ≤ c.toNat ∧ c.toNat ≤ 0x7A) ∧
    (∀ c ∈ [0x32#8, 0x37#8], 0x32 ≤ c.toNat ∧ c.toNat ≤ 0x37) ∧
    (∀ c ∈ [0x00#8, 0x31#8, 0x38#8, 0x40#8, 0x5B#8, 0x60#8, 0x7B#8, 0xFF#8],
      ¬(0x41 ≤ c.toNat ∧ c.toNat ≤ 0x5A) ∧ ¬(0x61 ≤ c.toNat ∧ c.toNat ≤ 0x7A) ∧
        ¬(0x32 ≤ c.toNat ∧ c.toNat ≤ 0x37)) := by decide

theorem witness_KeyClearEndsTheKeyLifetime :
    ∀ s ∈ [pendingIn 0x00000101 keyed, pendingIn 0x00010001 keyed],
      EngineRuns s ∧ opField s.pending = 0x01 ∧ (argField s.pending ≠ 0 ∨ rsvdField s.pending ≠ 0) := by
  simp only [engineRuns_iff]; decide

/-- A legal state for each path of B32_PUSH, at BITCNT 2 and 3, below and at the capacity. -/
theorem witness_PushDecodesOneCharacter :
    (Legal poisoned ∧ poisoned.config.wf ∧ poisoned.status.keyInvalid = true) ∧
    (Legal small ∧ small.config.wf ∧ small.status.keyInvalid = false ∧ b32val 0x31 = none) ∧
    (Legal (full 3) ∧ (full 3).config.wf ∧ (full 3).status.keyInvalid = false ∧ b32val 0x41 = some 0 ∧
      3 ≤ (full 3).bitCnt.toNat ∧ (full 3).keyLen.toNat = (full 3).config.keyMaxBytes) ∧
    (Legal (full 2) ∧ (full 2).config.wf ∧ (full 2).status.keyInvalid = false ∧ (full 2).bitCnt.toNat ≤ 2) ∧
    (Legal (holding 7 3 0 small) ∧ (holding 7 3 0 small).config.wf ∧
      (holding 7 3 0 small).status.keyInvalid = false ∧ 3 ≤ (holding 7 3 0 small).bitCnt.toNat ∧
      (holding 7 3 0 small).keyLen.toNat ≠ (holding 7 3 0 small).config.keyMaxBytes) :=
  ⟨⟨legal_poisoned, by decide⟩, ⟨legal_small, by decide⟩, ⟨legal_full3, by decide⟩, ⟨legal_full2, by decide⟩,
    ⟨legal_holding3, by decide⟩⟩

/-- Thirteen characters fill the small block's key exactly; W1's secret is rejected. -/
theorem witness_PushedSecretIsTheSourcesDecode :
    small.config.wf ∧ KeyIsClear small ∧
    (∃ bytes, sourceDecode (List.replicate 13 0x41) = some bytes ∧
      5 * (List.replicate 13 0x41#8).length / 8 ≤ small.config.keyMaxBytes) ∧
    sourceDecode [0x41, 0x31] = none :=
  ⟨by decide, keyIsClear_reset _, ⟨List.replicate 8 0x00, by decide⟩, by decide⟩

theorem witness_SecretOverflowsBeyondTheCapacity :
    small.config.wf ∧ KeyIsClear small ∧
    ∀ n ∈ [0, 14, 15, 16], ∀ c ∈ List.replicate n 0x41#8, b32val c ≠ none :=
  ⟨by decide, keyIsClear_reset _, by decide⟩

theorem witness_EncodedBytesAreDecodedBack :
    small.config.wf ∧ KeyIsClear small ∧
    ∀ b ∈ [[], List.replicate 8 0xFF#8], b.length ≤ small.config.keyMaxBytes :=
  ⟨by decide, keyIsClear_reset _, by decide⟩

/-- A byte that is stored, and a byte that is zeroed. -/
theorem witness_OnlyAPushStoresAKeyByte :
    (Memory.wf (pendingIn 0x00004402 (holding 1 7 0b0100010 small)).key ∧
      ∃ t, step (pendingIn 0x00004402 (holding 1 7 0b0100010 small)) = .next t ∧
        Memory.read t.key 1 ≠ Memory.read (pendingIn 0x00004402 (holding 1 7 0b0100010 small)).key 1) ∧
    (Memory.wf (pendingIn 0x00000001 keyed).key ∧
      ∃ t, step (pendingIn 0x00000001 keyed) = .next t ∧
        Memory.read t.key 0 ≠ Memory.read (pendingIn 0x00000001 keyed).key 0) :=
  ⟨⟨by decide, _, rfl, by decide⟩, ⟨by decide, _, rfl, by decide⟩⟩

theorem witness_ByteOrdersAreBigEndian : 0 < 8 ∧ 7 < 8 := by decide

/-- The ends of both ranges of the schedule's index; no index is in both. -/
theorem witness_ScheduleFollowsItsRecurrence : (0 < 16 ∧ 15 < 16) ∧ (16 ≤ 16 ∧ 16 < 80) ∧ (16 ≤ 79 ∧ 79 < 80) := by
  decide

theorem witness_DigestBytesAreBigEndianWords : (0 < 5 ∧ 0 < 4) ∧ (4 < 5 ∧ 3 < 4) := by decide

theorem witness_HmacKeyIsHashedOrZeroFilled :
    64 < (List.replicate 65 0x00#8).length ∧ (List.replicate 64 0x00#8).length + 0 ≤ 64 ∧
    ([] : List Byte).length + 64 ≤ 64 := by decide

/-- The ends of the four ranges of t; no t is in two of them. -/
theorem witness_RoundsAdvanceTheWorkingVariables :
    (0 ≤ 19 ∧ 19 ≤ 19) ∧ (20 ≤ 20 ∧ 20 ≤ 39) ∧ (20 ≤ 39 ∧ 39 ≤ 39) ∧ (40 ≤ 40 ∧ 40 ≤ 59) ∧ (40 ≤ 59 ∧ 59 ≤ 59) ∧
    (60 ≤ 60 ∧ 60 ≤ 79) ∧ (60 ≤ 79 ∧ 79 ≤ 79) ∧ 79 < (schedule (List.replicate 64 0x00)).length := by
  decide +kernel

theorem witness_BlocksSplitThePaddedMessage : (∃ B, B ∈ blocks (pad [])) ∧ 0 < 16 ∧ 15 < 16 :=
  ⟨⟨pad [], by decide +kernel⟩, by decide⟩

/-- A poisoned key, an empty key, and a key that passes. -/
theorem witness_TotpGenComputesTheTimeCode :
    poisoned.status.keyInvalid = true ∧ (small.status.keyInvalid = false ∧ small.keyLen = 0) ∧
    (keyed.status.keyInvalid = false ∧ keyed.keyLen ≠ 0) := by decide

/-- The same three states meet the hypotheses of HOTP_GEN's statement. -/
theorem witness_HotpGenComputesTheCounterCode :
    poisoned.status.keyInvalid = true ∧ (small.status.keyInvalid = false ∧ small.keyLen = 0) ∧
    (keyed.status.keyInvalid = false ∧ keyed.keyLen ≠ 0) := witness_TotpGenComputesTheTimeCode

theorem witness_SecondGenerateFailsWithCrypto :
    ∀ i ∈ [Instr.totpGen, .hotpGen], i = .totpGen ∨ i = .hotpGen := by decide

theorem witness_LeftoverBitsAreIgnored :
    ∀ i ∈ [Instr.totpGen, .hotpGen], i = .totpGen ∨ i = .hotpGen := by decide

theorem witness_CodeStringRendersTheCode : 0 < 6 ∧ 5 < 6 := by decide

theorem witness_TimeGivesCounterAndRemainingSeconds :
    (0 : DWord).toNat % 30000 ≤ 999 ∧ (999 : DWord).toNat % 30000 ≤ 999 ∧ (1000 : DWord).toNat % 30000 = 1000 ∧
    (59999 : DWord).toNat % 30000 = 29999 := by decide

theorem witness_HashRegistersHoldTheDigest : (List.replicate 20 0xFF#8).length = 20 := by decide

/-- GEN-C1: TIME 59000 ms and CTR 1. -/
theorem witness_TotpAgreesWithHotpOnItsCounter :
    GenerateReady { keyed with timeLo := 59000 } ∧ GenerateReady { keyed with ctrLo := 1 } ∧
    keyBytes { keyed with timeLo := 59000 } = keyBytes { keyed with ctrLo := 1 } ∧
    (counter { keyed with ctrLo := 1 }).toNat = (timeInput { keyed with timeLo := 59000 }).toNat / 30000 := by
  simp only [generateReady_iff]; decide

theorem witness_GeneratedResultsDependOnKeyAndTimeAlone :
    GenerateReady { keyed with ctrLo := 7 } ∧ GenerateReady { keyed with bitBuf := 1, timeLo := 7 } ∧
    keyBytes { keyed with ctrLo := 7 } = keyBytes { keyed with bitBuf := 1, timeLo := 7 } ∧
    timeInput { keyed with ctrLo := 7 } = timeInput { keyed with bitBuf := 1 } ∧
    counter { keyed with timeLo := 7 } = counter { keyed with bitBuf := 1 } := by
  simp only [generateReady_iff]; decide

/-- A generate command that writes results, and a reset that clears them. -/
theorem witness_OnlyASuccessfulGenerateWritesResults :
    (after (fun t => t.results.code.toNat) (step (pendingIn 0x00000004 rfc)) = some 755224 ∧
      (pendingIn 0x00000004 rfc).results.code.toNat = 0) ∧
    (after (fun t => t.results.remain) (step (issuing .reset { small with results := { Results.cleared with remain := 1 } }))
      = some 0) := ⟨by decide +kernel, by decide⟩

/-- Reads at both ends of the window, also while BUSY, and at BASE. -/
theorem witness_ReadReturnsTheRegisterAndChangesNothing :
    (∀ off ∈ [0x00, 0x04, 0x4C, 0x50, 0xFC], off < 0x100 ∧ off % 4 = 0 ∧
      HostIssues (rd small.config off) (issuing (rd small.config off) small)) ∧
    HostIssues (rd small.config 0x20)
      { issuing (rd small.config 0x20) (pendingIn 0x00000003 small) with turns := [.host] } := by
  simp only [hostIssues_iff]; decide

theorem witness_RegisterMapReadsEachField : small.config.wf ∧ ∀ off ∈ [0x50, 0xFC, 0x100], 0x50 ≤ off := by decide

theorem witness_StatusHasItsLayout :
    (0x0000000A : Word).getLsbD 1 = (0xFFFFFFFF : Word).getLsbD 1 ∧
    (0x0000000A : Word).getLsbD 3 = (0xFFFFFFFF : Word).getLsbD 3 := by decide

/-- Every offset class of the write, BUSY = 0 and BUSY = 1; no offset falls under two classes. -/
theorem witness_WriteIsDroppedOrActsByOffset :
    (∀ off ∈ [0x00, 0x04, 0x08, 0x0C, 0x10, 0x14, 0x18, 0x4C, 0x50, 0xFC], off < 0x100 ∧ off % 4 = 0 ∧
      (HostIssues (wr small.config off 5) (issuing (wr small.config off 5) small) ∧ small.status.busy = false) ∧
      HostIssues (wr small.config off 5)
        { issuing (wr small.config off 5) (pendingIn 0x00000003 small) with turns := [.host] } ∧
      (pendingIn 0x00000003 small).status.busy = true) := by
  simp only [hostIssues_iff]; decide

/-- Accesses just inside the window and, in each way, just outside what is admitted. -/
theorem witness_OnlyAdmittedAccessesHaveAMeaning :
    (∀ p ∈ [(0x1000, 4), (0x10FC, 4), (0x0FFF, 4), (0x1100, 4), (0x1002, 4), (0x1000, 1), (0x1000, 2), (0x1000, 8)],
      HostIssues (.read p.1 p.2) (issuing (.read p.1 p.2) small) ∧
      HostIssues (.write p.1 p.2 0) (issuing (.write p.1 p.2 0) small)) := by
  simp only [hostIssues_iff]; decide

theorem witness_HostTurnFrame :
    (∀ op ∈ [rd small.config 0x04, wr small.config 0x00 0x00000003, wr small.config 0x04 0x0000000A, .wait],
      nextAgent (issuing op small) = .host ∧ (issuing op small).host.head? ≠ some .reset ∧
        (nextState (step (issuing op small))).isSome = true) := by decide

/-- A HOST turn that reads the whole of what a HOST can read about the key, over a state with hidden contents. -/
theorem witness_HostLearnsNoHiddenState :
    nextAgent (issuing (rd small.config 0x18) keyed) = .host ∧
    ∃ t, step (issuing (rd small.config 0x18) keyed) = .next t := ⟨by decide, _, rfl⟩

/-- A reset of an idle block and of a block with a command pending. -/
theorem witness_ResetReturnsEveryRegisterToItsValue :
    (nextAgent (issuing .reset keyed) = .host ∧ (issuing .reset keyed).host.head? = some .reset) ∧
    nextAgent { issuing .reset (pendingIn 0x00000003 keyed) with turns := [.host] } = .host ∧
    { issuing .reset (pendingIn 0x00000003 keyed) with turns := [.host] }.host.head? = some .reset ∧
    ∀ off ∈ [0x00, 0x48, 0x50, 0xFC], off < 0x100 ∧ off % 4 = 0 ∧ off ≠ 0x4C := by decide

theorem witness_NothingButResetBeforeTheFirstReset :
    ({ small with wasReset := false, turns := [.engine] }.wasReset = false ∧
      nextAgent { small with wasReset := false, turns := [.engine] } = .engine) ∧
    (∀ op ∈ [rd small.config 0x04, wr small.config 0x00 1, .wait, .reset],
      (issuing op { small with wasReset := false }).wasReset = false ∧
      nextAgent (issuing op { small with wasReset := false }) = .host ∧
      (issuing op { small with wasReset := false }).host.head? = some op) := by decide

theorem witness_InvariantHoldsAfterReset : Config.wf ⟨1, 0⟩ ∧ Config.wf ⟨65535, 0xFFFFFF00⟩ := by decide

/-- The invariant holds of states with a key, a poisoned key and a full buffer, from which steps go on. -/
theorem witness_StepKeepsTheInvariant :
    (StateInv keyed ∧ ∃ t, step keyed = .next t) ∧ (StateInv poisoned ∧ ∃ t, step poisoned = .next t) ∧
    (StateInv (full 3) ∧ ∃ t, step (full 3) = .next t) :=
  ⟨⟨⟨by decide, fun _ => legal_keyed⟩, _, rfl⟩, ⟨⟨by decide, fun _ => legal_poisoned⟩, _, rfl⟩,
    ⟨⟨by decide, fun _ => legal_full3⟩, _, rfl⟩⟩

theorem witness_ParamIsAConstantOfTheConfiguration :
    small.config.wf ∧ ∃ t, step (issuing .reset small) = .next t := ⟨by decide, _, rfl⟩

/-- BUSY rises at an accepted CMD write, and falls at a completion and at a reset. -/
theorem witness_BusyRisesAtAcceptanceAndFallsAtCompletion :
    (small.status.busy = false ∧
      after (·.status.busy) (step (issuing (wr small.config 0x00 0x00000001) small)) = some true) ∧
    ((pendingIn 0x00000001 small).status.busy = true ∧
      after (·.status.busy) (step (pendingIn 0x00000001 small)) = some false) ∧
    after (·.status.busy) (step { issuing .reset (pendingIn 0x00000001 small) with turns := [.host] }) =
      some false := by decide

/-- KEY_INVALID rises at both errors, and falls at a KEY_CLEAR, at both generate commands and at a reset. -/
theorem witness_KeyInvalidChangesOnlyAsItsRuleSays :
    (∀ p ∈ [(0x00003102#32, keyed), (0x00004102, full 3)], p.2.status.keyInvalid = false ∧
      after (·.status.keyInvalid) (step (pendingIn p.1 p.2)) = some true) ∧
    (∀ p ∈ [(0x00000001#32, poisoned), (0x00000003, poisoned), (0x00000004, poisoned)],
      p.2.status.keyInvalid = true ∧ after (·.status.keyInvalid) (step (pendingIn p.1 p.2)) = some false) ∧
    after (·.status.keyInvalid) (step (issuing .reset poisoned)) = some false := by decide

theorem witness_ResultValidTellsOfTheLastGenerate :
    (∀ p ∈ [(0x00000003#32, keyed), (0x00000003, small), (0x00000004, poisoned), (0x00000001, keyed),
        (0x00004102, keyed), (0x00000000, keyed)], EngineRuns (pendingIn p.1 p.2)) := by
  simp only [engineRuns_iff]; decide

/-- ERRCODE changed by a completion and by a reset; OVERRUN set by a dropped write, and cleared by W1C and by a reset. -/
theorem witness_ErrCodeAndOverrunHaveTheirWriters :
    after (·.status.errCode) (step (pendingIn 0x00000003 small)) = some 2 ∧ small.status.errCode = 0 ∧
    (after (fun t => (t.status.errCode, t.status.overrun))
      (step (issuing .reset { small with status := { Status.cleared with errCode := 2, overrun := true } })) =
        some (0, false)) ∧
    (after (·.status.overrun)
      (step { issuing (wr small.config 0x50 0) (pendingIn 0x00000003 small) with turns := [.host] }) = some true ∧
        (pendingIn 0x00000003 small).status.overrun = false) ∧
    after (·.status.overrun)
      (step (issuing (wr small.config 0x04 8) { small with status := { Status.cleared with overrun := true } })) =
        some false := by decide

/-- A step that keeps a command pending: the HOST polls while the ENGINE has not yet moved. -/
theorem witness_PendingWordIsFixedWhileBusy :
    (pendingIn 0x00000003 small).status.busy = true ∧
    ∃ t, step { issuing .wait (pendingIn 0x00000003 small) with turns := [.host] } = .next t := ⟨by decide, _, rfl⟩

theorem witness_PendingCommandCompletes :
    { pendingIn 0x00000001 small with turns := [.host, .engine] }.wasReset = true ∧
    { pendingIn 0x00000001 small with turns := [.host, .engine] }.status.busy = true := by decide

theorem witness_DoCommandExecutesTheCommand :
    ∀ i ∈ [Instr.keyClear, .b32Push 0x41, .totpGen, .hotpGen],
      { keyed with host := doCommand keyed.config i }.wasReset = true ∧
      { keyed with host := doCommand keyed.config i }.status.busy = false ∧
      { keyed with host := doCommand keyed.config i }.turns = [] ∧
      { keyed with host := doCommand keyed.config i }.host = doCommand keyed.config i ++ [] := by decide

theorem witness_AssembledLinesAreTheEncodedCommands :
    ('A' : Char).toNat < 128 ∧ (Char.ofNat 0).toNat < 128 ∧ (Char.ofNat 127).toNat < 128 := by decide

theorem witness_EqualReadsMeanEqualMemories :
    Memory.wf keyed.key ∧ Memory.wf [(0, 0x66#8)] ∧ ∀ a, Memory.read keyed.key a = Memory.read [(0, 0x66#8)] a :=
  ⟨by decide, by decide, fun _ => rfl⟩

end Sys2Proof.Tests
end

section
/-! SUPPORT. The byte orders of `Machine/Bytes.lean` as the other proofs read them: a byte of BE64, and BE32 as the
number its four bytes are the base-256 digits of (00_scope.md R13). -/

namespace Sys2Proof.Machine

@[simp] theorem length_be64 (c : DWord) : (be64 c).length = 8 := by simp [be64]

theorem byteAt_be64 (c : DWord) {i : Nat} (hi : i < 8) : byteAt (be64 c) i = c.extractLsb' (56 - 8 * i) 8 := by
  simp [byteAt, be64, hi]

theorem toNat_be32 (S : List Byte) (i : Nat) :
    (be32 S i).toNat = (byteAt S i).toNat * 2 ^ 24 + (byteAt S (i + 1)).toNat * 2 ^ 16 +
      (byteAt S (i + 2)).toNat * 2 ^ 8 + (byteAt S (i + 3)).toNat := by
  simp only [be32, toNat_append]
  ring

/-- Settles O18: the bytes of BE64 one by one, and the base-256 digits of BE32. -/
theorem byteOrdersAreBigEndian : Obligations.ByteOrdersAreBigEndian :=
  ⟨fun c => ⟨length_be64 c, fun _ hi => byteAt_be64 c hi⟩, toNat_be32⟩

end Sys2Proof.Machine
end

section
/-! SUPPORT. What the execution of the pending word can do to a state, one case per path of a command (41_base32.md
R105, R106; 43_generate.md R178, R179; 30_encoding.md R86). -/

namespace Sys2Proof.Machine

/-- The word decodes to one of the two generate commands. -/
def IsGenerate (w : Word) : Prop := decode w = .ok .totpGen ∨ decode w = .ok .hotpGen

/-- The states an execution of the pending word can leave, with the checks that lead to each. -/
inductive Executes (s : State) : State → Prop
  | illegal {e : IllegalWord} (word : decode s.pending = .error e) : Executes s (complete .illegalCommand s)
  | keyClear (word : decode s.pending = .ok .keyClear) : Executes s (complete .ok (zeroKey false s))
  | pushPoisoned {c : Byte} (word : decode s.pending = .ok (.b32Push c)) (invalid : s.status.keyInvalid = true) :
      Executes s (complete .keyPoisoned s)
  | pushRejected {c : Byte} (word : decode s.pending = .ok (.b32Push c)) (valid : s.status.keyInvalid = false)
      (value : b32val c = none) :
      Executes s (complete .invalidInput (zeroKey true s))
  | pushOverflow {c : Byte} {v : BitVec 5} (word : decode s.pending = .ok (.b32Push c))
      (valid : s.status.keyInvalid = false) (value : b32val c = some v) (many : 3 ≤ s.bitCnt.toNat)
      (full : s.keyLen.toNat = s.config.keyMaxBytes) :
      Executes s (complete .keyOverflow (zeroKey true s))
  | pushKept {c : Byte} {v : BitVec 5} (word : decode s.pending = .ok (.b32Push c))
      (valid : s.status.keyInvalid = false) (value : b32val c = some v) (few : s.bitCnt.toNat ≤ 2) :
      Executes s (complete .ok (keepBits (pushedBits s v) (pushedCount s) s))
  | pushStored {c : Byte} {v : BitVec 5} (word : decode s.pending = .ok (.b32Push c))
      (valid : s.status.keyInvalid = false) (value : b32val c = some v) (many : 3 ≤ s.bitCnt.toNat)
      (room : s.keyLen.toNat ≠ s.config.keyMaxBytes) :
      Executes s (complete .ok (keepBits (pushedBits s v) (pushedCount s - 8)
        (appendKeyByte (completedByte (pushedBits s v) (pushedCount s - 8)) s)))
  | generatePoisoned (word : IsGenerate s.pending) (invalid : s.status.keyInvalid = true) :
      Executes s (generateFailed .keyPoisoned s)
  | generateEmpty (word : IsGenerate s.pending) (valid : s.status.keyInvalid = false) (empty : s.keyLen = 0) :
      Executes s (generateFailed .crypto s)
  | totpDone (word : decode s.pending = .ok .totpGen) (ready : GenerateReady s) :
      Executes s (generateDone (totpEffect s))
  | hotpDone (word : decode s.pending = .ok .hotpGen) (ready : GenerateReady s) :
      Executes s (generateDone (hotpEffect s))

theorem executes_of_b32Push {s t : State} {c : Byte} (word : decode s.pending = .ok (.b32Push c))
    (h : exec (.b32Push c) s = .next t) : Executes s t := by
  rcases exec_b32Push_cases c s with ⟨hi, hx⟩ | ⟨hi, hc, hx⟩ | ⟨hi, v, hc, hx⟩
  · cases hx.symm.trans h; exact .pushPoisoned word hi
  · cases hx.symm.trans h; exact .pushRejected word hi hc
  · rcases pushValue_cases v s with ⟨few, hv⟩ | ⟨many, full, hv⟩ | ⟨many, room, hv⟩ <;> cases (hx.trans hv).symm.trans h
    · exact .pushKept word hi hc few
    · exact .pushOverflow word hi hc many full
    · exact .pushStored word hi hc many room

/-- A generate command fails its checks or ends with its own registers written. -/
theorem executes_of_generateChecked {s t : State} {effect : State → State} (word : IsGenerate s.pending)
    (done : GenerateReady s → Executes s (generateDone (effect s))) (h : generateChecked effect s = .next t) :
    Executes s t := by
  rcases generateChecked_cases effect s with ⟨hi, hx⟩ | ⟨hi, hk, hx⟩ | ⟨ready, hx⟩ <;> cases hx.symm.trans h
  · exact .generatePoisoned word hi
  · exact .generateEmpty word hi hk
  · exact done ready

theorem executes_of_execPending {s t : State} (h : execPending s = .next t) : Executes s t := by
  cases word : decode s.pending with
  | error e => cases (execPending_error word).symm.trans h; exact .illegal word
  | ok i =>
    rw [execPending_ok word] at h
    cases i with
    | keyClear => cases (exec_keyClear s).symm.trans h; exact .keyClear word
    | b32Push c => exact executes_of_b32Push word h
    | totpGen => exact executes_of_generateChecked (.inl word) (.totpDone word) h
    | hotpGen => exact executes_of_generateChecked (.inr word) (.hotpDone word) h

/-- An execution ends with BUSY 0 and DONE 1 (60_exceptions.md R203). -/
theorem execPending_completed {s t : State} (h : execPending s = .next t) :
    t.status.busy = false ∧ t.status.done = true := by
  obtain ⟨e, u, hu, -⟩ := execPending_completes s
  cases hu.symm.trans h
  exact ⟨rfl, rfl⟩

theorem execPending_frame {s t : State} (h : execPending s = .next t) : CommandFrame s t := by
  obtain ⟨e, u, hu, frame⟩ := execPending_completes s
  cases hu.symm.trans h
  exact frame

end Sys2Proof.Machine
end

section
/-! SUPPORT. What a step can do, one case per kind of move of the two agents; a HOST write by what it finds and where
it lands (20_memory.md R63 to R67). -/

namespace Sys2Proof.Machine

theorem mem_registerMap_of_regAt {off : Nat} {r : Reg} (h : regAt off = some r) : (off, r) ∈ registerMap := by
  obtain ⟨l₁, l₂, hl, -⟩ := List.lookup_eq_some_iff.1 h
  simp [hl]

/-- What a write does to STATUS and PENDING: dropped, accepted, a write to STATUS, or nothing. -/
theorem writeOffset_cases (s : State) (off : Nat) (v : Word) :
    (s.status.busy = true ∧ writeOffset s off v = { s with status := { s.status with overrun := true } }) ∨
    (s.status.busy = false ∧ off = 0x00 ∧ writeOffset s off v = accept v s) ∨
    (s.status.busy = false ∧ off = 0x04 ∧ writeOffset s off v = { s with status := statusWrite v s.status }) ∨
    (s.status.busy = false ∧ (writeOffset s off v).status = s.status) := by
  cases hb : s.status.busy with
  | true => exact .inl ⟨rfl, writeOffset_busy hb off v⟩
  | false =>
    cases hr : regAt off with
    | none => exact .inr (.inr (.inr ⟨rfl, by rw [writeOffset_reserved hb hr]⟩))
    | some r =>
      have hmem := mem_registerMap_of_regAt hr
      rw [writeOffset_reg hb hr]
      cases r with
      | cmd => exact .inr (.inl ⟨rfl, by simpa [registerMap] using hmem, rfl⟩)
      | status => exact .inr (.inr (.inl ⟨rfl, by simpa [registerMap] using hmem, rfl⟩))
      | _ => exact .inr (.inr (.inr ⟨rfl, rfl⟩))

/-- The moves of the two agents. A read and a poll of WAIT touch the HOST's own lists alone. -/
inductive Move (s : State) : State → Prop
  | command {t : State} (run : EngineRuns s) (exec : execPending (popTurn s) = .next t) : Move s t
  | idle : Move s (popTurn s)
  | look (hs : List HostOp) (rs : List Word) (turn : nextAgent s = .host) :
      Move s { popTurn s with host := hs, reads := rs }
  | write {off : Nat} {v : Word} (issues : HostIssues (wr s.config off v) s) :
      Move s (writeOffset (afterIssue s) off v)
  | reset (turn : nextAgent s = .host) (next : s.host.head? = some .reset) : Move s (applyReset (afterIssue s))

theorem move_of_step {s t : State} (h : step s = .next t) : Move s t := by
  rcases step_next h with ⟨run, hx⟩ | ⟨-, -, -, rfl⟩ | ⟨-, -, rfl⟩ | ⟨turn, op, next, hop⟩
  · exact .command run hx
  · exact .idle
  · exact .idle
  · rcases hostOp_next hop with ⟨_, _, off, -, -, rfl⟩ | ⟨addr, size, v, off, rfl, ho, rfl⟩ | ⟨-, -, rfl⟩ | ⟨rfl, rfl⟩
    · exact .look s.host.tail _ turn
    · obtain ⟨hw, rfl, rfl, -, -⟩ := busOffset_ok.1 ho
      exact .write ⟨hw, turn, next⟩
    · split
      · exact .look _ s.reads turn
      · exact .look s.host.tail s.reads turn
    · exact .reset turn next

/-- The fields that only the execution of a command or a reset writes (10_state.md R28, R30, R31, R35 to R46). -/
structure HostFrame (s t : State) : Prop where
  config : t.config = s.config
  wasReset : t.wasReset = s.wasReset
  key : t.key = s.key
  keyLen : t.keyLen = s.keyLen
  bitBuf : t.bitBuf = s.bitBuf
  bitCnt : t.bitCnt = s.bitCnt
  keyInvalid : t.status.keyInvalid = s.status.keyInvalid
  resultValid : t.status.resultValid = s.status.resultValid
  errCode : t.status.errCode = s.status.errCode
  results : t.results = s.results

theorem popTurn_hostFrame (s : State) : HostFrame s (popTurn s) :=
  ⟨rfl, rfl, rfl, rfl, rfl, rfl, rfl, rfl, rfl, rfl⟩

theorem hostFrame_writeOffset (s : State) (off : Nat) (v : Word) :
    HostFrame s (writeOffset (afterIssue s) off v) := by
  have f := writeOffset_frame (afterIssue s) off v
  exact ⟨f.config, f.wasReset, f.key, f.keyLen, f.bitBuf, f.bitCnt, f.keyInvalid, f.resultValid, f.errCode, f.results⟩

/-- A step executes the pending word, is a reset, or keeps to the HOST's frame. -/
theorem step_changes {s t : State} (h : step s = .next t) :
    (EngineRuns s ∧ Executes (popTurn s) t) ∨
    ((nextAgent s = .host ∧ s.host.head? = some .reset) ∧ t = applyReset (afterIssue s)) ∨
    HostFrame s t := by
  cases move_of_step h with
  | command run exec => exact .inl ⟨run, executes_of_execPending exec⟩
  | idle => exact .inr (.inr (popTurn_hostFrame s))
  | look => exact .inr (.inr ⟨rfl, rfl, rfl, rfl, rfl, rfl, rfl, rfl, rfl, rfl⟩)
  | write => exact .inr (.inr (hostFrame_writeOffset s _ _))
  | reset turn next => exact .inr (.inl ⟨⟨turn, next⟩, rfl⟩)

end Sys2Proof.Machine
end

section
/-! SUPPORT. The invariant of 10_state.md R48 is kept by each shared operation, and so by each command and move. -/

namespace Sys2Proof.Machine

theorem writeResults_code_le (hash : List Byte) (r : Results) : (writeResults hash r).code.toNat ≤ 999999 := by
  have : codeValue hash < 1000000 := Nat.mod_lt _ (by decide)
  simp only [writeResults, BitVec.toNat_ofNat]
  omega

theorem remainingSeconds_le (t : DWord) : (remainingSeconds t).toNat ≤ 30 := by
  simp only [remainingSeconds, BitVec.toNat_ofNat]
  omega

theorem legal_resetWith (c : Config) : Legal (State.resetWith c) where
  bitCnt_le := Nat.zero_le _
  bitBuf_lt := Nat.one_pos
  keyLen_le := Nat.zero_le _
  key_canonical := resetWith_key_wf c
  key_zero _ _ := rfl
  poisoned_empty := nofun
  busy_not_done := nofun
  code_le := Nat.zero_le _
  remain_le := Nat.zero_le _
  errCode_le := Nat.zero_le _

/-- The invariant reads only fields of the HOST's frame, and BUSY and DONE. -/
theorem Legal.of_hostFrame {s t : State} (h : Legal s) (f : HostFrame s t)
    (busy : t.status.busy = true → t.status.done = false) : Legal t where
  bitCnt_le := by rw [f.bitCnt]; exact h.bitCnt_le
  bitBuf_lt := by rw [f.bitBuf, f.bitCnt]; exact h.bitBuf_lt
  keyLen_le := by rw [f.keyLen, f.config]; exact h.keyLen_le
  key_canonical := by rw [f.key]; exact h.key_canonical
  key_zero := by rw [f.key, f.keyLen]; exact h.key_zero
  poisoned_empty := by rw [f.keyInvalid, f.keyLen, f.bitCnt, f.bitBuf]; exact h.poisoned_empty
  busy_not_done := busy
  code_le := by rw [f.results]; exact h.code_le
  remain_le := by rw [f.results]; exact h.remain_le
  errCode_le := by rw [f.errCode]; exact h.errCode_le

variable {s : State}

theorem Legal.popTurn (h : Legal s) : Legal (popTurn s) := h.of_hostFrame (popTurn_hostFrame s) h.busy_not_done

theorem Legal.complete (h : Legal s) (e : ErrCode) : Legal (complete e s) :=
  { h with busy_not_done := nofun, errCode_le := errCodeValue_le e }

theorem Legal.zeroKey (h : Legal s) (b : Bool) : Legal (zeroKey b s) :=
  { h with
    bitCnt_le := Nat.zero_le _
    bitBuf_lt := Nat.one_pos
    keyLen_le := Nat.zero_le _
    key_canonical := Memory.wf_zeroed
    key_zero := fun _ _ => rfl
    poisoned_empty := fun _ => ⟨rfl, rfl, rfl⟩ }

theorem Legal.setResultValid (h : Legal s) (b : Bool) : Legal (setResultValid b s) := { h with }

theorem Legal.setCounter (h : Legal s) (c : DWord) : Legal (setCounter c s) := { h with }

theorem Legal.generateResults (h : Legal s) (c : DWord) {r : BitVec 5} (hr : r.toNat ≤ 30) :
    Legal (generateResults c r s) :=
  { h with code_le := writeResults_code_le _ s.results, remain_le := hr }

theorem Legal.keepBits (h : Legal s) (valid : s.status.keyInvalid = false) (buf : Nat) {cnt : Nat} (hc : cnt ≤ 7) :
    Legal (keepBits buf cnt s) :=
  { h with
    bitCnt_le := by rwa [keepBits_bitCnt_toNat buf hc]
    bitBuf_lt := by
      rw [keepBits_bitBuf_toNat buf hc, keepBits_bitCnt_toNat buf hc]
      exact Nat.mod_lt _ (Nat.two_pow_pos cnt)
    poisoned_empty := fun hi => absurd (valid.symm.trans hi) Bool.false_ne_true }

/-- KEY_LEN counts on without overflow while the key is below its capacity. -/
theorem toNat_keyLen_succ (h : Legal s) (hc : s.config.wf) (room : s.keyLen.toNat ≠ s.config.keyMaxBytes) :
    (s.keyLen + 1).toNat = s.keyLen.toNat + 1 ∧ s.keyLen.toNat + 1 ≤ s.config.keyMaxBytes := by
  have := h.keyLen_le
  have := hc.2
  rw [BitVec.toNat_add, show (1 : BitVec 16).toNat = 1 from rfl]
  omega

theorem Legal.appendKeyByte (h : Legal s) (hc : s.config.wf) (valid : s.status.keyInvalid = false)
    (room : s.keyLen.toNat ≠ s.config.keyMaxBytes) (b : Byte) : Legal (appendKeyByte b s) := by
  obtain ⟨hlen, hle⟩ := toNat_keyLen_succ h hc room
  exact
    { h with
      keyLen_le := by rwa [appendKeyByte_keyLen, hlen]
      key_canonical := Memory.wf_write h.key_canonical _ b
      key_zero := fun i hi => by
        rw [appendKeyByte_keyLen, hlen] at hi
        rw [appendKeyByte_key, Memory.read_write h.key_canonical, if_neg (by omega)]
        exact h.key_zero i (by omega)
      poisoned_empty := fun hi => absurd (valid.symm.trans hi) Bool.false_ne_true }

/-- Every command keeps the invariant. -/
theorem Legal.executes {t : State} (h : Legal s) (hc : s.config.wf) (hx : Executes s t) : Legal t := by
  have hcnt := h.bitCnt_le
  cases hx with
  | illegal => exact h.complete _
  | keyClear => exact (h.zeroKey _).complete _
  | pushPoisoned => exact h.complete _
  | pushRejected => exact (h.zeroKey _).complete _
  | pushOverflow => exact (h.zeroKey _).complete _
  | pushKept word valid value few => exact (h.keepBits valid _ (by unfold pushedCount; omega)).complete _
  | pushStored word valid value many room =>
    exact ((h.appendKeyByte hc valid room _).keepBits valid _ (by unfold pushedCount; omega)).complete _
  | generatePoisoned | generateEmpty => exact ((h.setResultValid _).zeroKey _).complete _
  | totpDone =>
    have he : Legal (totpEffect s) := (h.generateResults _ (remainingSeconds_le _)).setCounter _
    exact ((he.setResultValid _).zeroKey _).complete _
  | hotpDone =>
    have he : Legal (hotpEffect s) := h.generateResults _ (Nat.zero_le _)
    exact ((he.setResultValid _).zeroKey _).complete _

/-- A bus write keeps BUSY and DONE exclusive. -/
theorem writeOffset_busy_not_done (h : s.status.busy = true → s.status.done = false) (off : Nat) (v : Word) :
    (writeOffset s off v).status.busy = true → (writeOffset s off v).status.done = false := by
  rcases writeOffset_cases s off v with ⟨-, hw⟩ | ⟨-, -, hw⟩ | ⟨-, -, hw⟩ | ⟨-, hw⟩ <;> rw [hw]
  · exact h
  · exact fun _ => rfl
  · intro hb
    rw [statusWrite_done, h hb, Bool.false_and]
  · exact h

/-- A move out of a legal state, or out of any state before the first reset, ends in one of the two again. -/
theorem Legal.move {t : State} (h : s.wasReset = true → Legal s) (hc : s.config.wf) (m : Move s t) :
    t.wasReset = true → Legal t := by
  cases m with
  | command run exec => exact fun _ => (h run.wasReset).popTurn.executes hc (executes_of_execPending exec)
  | idle => exact fun hw => (h hw).popTurn
  | look hs rs turn => exact fun hw => { h hw with }
  | @write off v issues =>
    have hl := h issues.wasReset
    exact fun _ => hl.of_hostFrame (hostFrame_writeOffset s off v)
      (writeOffset_busy_not_done (s := afterIssue s) hl.busy_not_done off v)
  | reset => exact fun _ => { legal_resetWith s.config with }

/-- The configuration is the one field that no step changes, the reset included. -/
theorem step_config {t : State} (h : step s = .next t) : t.config = s.config := by
  cases move_of_step h with
  | command run exec => exact (execPending_frame exec).config
  | idle => rfl
  | look => rfl
  | write => exact (hostFrame_writeOffset s _ _).config
  | reset => rfl

end Sys2Proof.Machine
end

section
/-! The invariant holds after a reset and is kept by every step (10_state.md R48). -/

namespace Sys2Proof.Machine

/-- Settles O46: each kind of move keeps the invariant, a command by the operations it is made of. -/
theorem stepKeepsTheInvariant : Obligations.StepKeepsTheInvariant := fun s t inv h =>
  ⟨by rw [step_config h]; exact inv.config_wf, Legal.move inv.legal inv.config_wf (move_of_step h)⟩

/-- Settles O45: every field is 0 and every flag clear. -/
theorem invariantHoldsAfterReset : Obligations.InvariantHoldsAfterReset :=
  ⟨fun c hc => ⟨hc, fun _ => legal_resetWith c⟩, by decide, fun _ => legal_resetWith _⟩

end Sys2Proof.Machine
end

section
/-! What each agent's turn leaves alone (10_state.md R29, R33, R43, R45 to R49). -/

namespace Sys2Proof.Machine

/-- Settles O10: the ENGINE's turn is an execution, within the frame of all commands, or idle. -/
theorem engineTurnFrame : Obligations.EngineTurnFrame := by
  intro s t turn h
  have f : CommandFrame (popTurn s) t := by
    rcases step_next h with ⟨-, hx⟩ | ⟨-, -, -, rfl⟩ | ⟨hh, -⟩ | ⟨hh, -⟩
    · exact execPending_frame hx
    · exact .refl _
    all_goals exact nomatch turn.symm.trans hh
  exact ⟨f.overrun, f.timeLo, f.timeHi, f.pending, f.config, f.wasReset, f.host, f.reads, f.turns⟩

/-- Settles O40: of the three things a step can be, the HOST's turn without a reset is the last. -/
theorem hostTurnFrame : Obligations.HostTurnFrame := by
  intro s t turn noReset h
  rcases step_changes h with ⟨run, -⟩ | ⟨⟨-, reset⟩, -⟩ | f
  · exact nomatch turn.symm.trans run.turn
  · exact absurd reset noReset
  · exact ⟨f.key, f.keyLen, f.bitBuf, f.bitCnt, f.keyInvalid, f.resultValid, f.errCode, f.results, f.config,
      f.wasReset⟩

theorem readOffset_param (s : State) :
    readOffset s 0x4C = (BitVec.ofNat 16 s.config.keyMaxBytes).setWidth 32 := rfl

theorem toNat_readOffset_param {s : State} (hc : s.config.wf) :
    (readOffset s 0x4C).toNat = s.config.keyMaxBytes := by
  have := hc.2
  rw [readOffset_param, BitVec.toNat_setWidth, BitVec.toNat_ofNat]
  omega

/-- Settles O47: PARAM is read from the configuration, which no step changes. -/
theorem paramIsAConstantOfTheConfiguration : Obligations.ParamIsAConstantOfTheConfiguration := by
  refine ⟨fun s => toNat_readOffset_param, fun s t h => ⟨step_config h, ?_⟩⟩
  rw [readOffset_param, readOffset_param, step_config h]

/-- The key memory after an execution: as before, all zero, or with one byte stored at KEY_LEN. -/
theorem Executes.key_cases {s t : State} (hx : Executes s t) :
    t.key = s.key ∨ t.key = Memory.zeroed ∨
    ((∃ c, decode s.pending = .ok (.b32Push c)) ∧ t.keyLen = s.keyLen + 1 ∧
      ∃ b, t.key = Memory.write s.key s.keyLen.toNat b) := by
  cases hx with
  | illegal | pushPoisoned | pushKept => exact .inl rfl
  | pushStored word => exact .inr (.inr ⟨⟨_, word⟩, rfl, _, rfl⟩)
  | _ => exact .inr (.inl rfl)

/-- Settles O17: a stored byte changes no address but KEY_LEN. -/
theorem onlyAPushStoresAKeyByte : Obligations.OnlyAPushStoresAKeyByte := by
  intro s t canonical h a changed
  rcases step_changes h with ⟨run, hx⟩ | ⟨-, rfl⟩ | f
  · rcases hx.key_cases with hk | hk | ⟨⟨c, word⟩, hlen, b, hk⟩
    · exact absurd (congrArg (Memory.read · a) hk) changed
    · exact .inl (by rw [hk, Memory.read_zeroed])
    · refine .inr ⟨run, c, word, ?_, hlen⟩
      by_contra ha
      rw [hk, popTurn_key, popTurn_keyLen, Memory.read_write canonical, if_neg ha] at changed
      exact changed rfl
  · exact .inl rfl
  · exact absurd (congrArg (Memory.read · a) f.key) changed

/-- The result registers after an execution: as before, or those of a generate command that passed its checks. -/
theorem Executes.results_cases {s t : State} (hx : Executes s t) :
    t.results = s.results ∨
    (GenerateReady s ∧ IsGenerate s.pending ∧ t.status.errCode = 0 ∧ t.status.resultValid = true) := by
  cases hx with
  | totpDone word ready => exact .inr ⟨ready, .inl word, rfl, rfl⟩
  | hotpDone word ready => exact .inr ⟨ready, .inr word, rfl, rfl⟩
  | _ => exact .inl rfl

/-- Settles O34: an execution either leaves the registers or passed the checks, and all else but a reset leaves them. -/
theorem onlyASuccessfulGenerateWritesResults : Obligations.OnlyASuccessfulGenerateWritesResults := by
  intro s t h changed
  rcases step_changes h with ⟨run, hx⟩ | ⟨reset, -⟩ | f
  · rcases hx.results_cases with hr | ⟨ready, word, hcode, hvalid⟩
    · exact absurd hr changed
    · exact .inl ⟨run, ⟨ready.keyValid, ready.keyNonempty⟩, word, hcode, hvalid⟩
  · exact .inr reset
  · exact absurd f.results changed

end Sys2Proof.Machine
end

section
/-! The flags of STATUS and who changes each (10_state.md R26 to R31). -/

namespace Sys2Proof.Machine

/-- A flag that a step leaves as it was neither rises nor falls. -/
theorem no_edge {b b' : Bool} {rise fall : Prop} (h : b' = b) :
    (b = false → b' = true → rise) ∧ (b = true → b' = false → fall) := by
  subst h
  exact ⟨fun h0 h1 => absurd (h0.symm.trans h1) Bool.false_ne_true,
    fun h1 h0 => absurd (h0.symm.trans h1) Bool.false_ne_true⟩

/-- Settles O48: only acceptance sets BUSY; a write that finds BUSY = 1 leaves it. -/
theorem busyRisesAtAcceptanceAndFallsAtCompletion : Obligations.BusyRisesAtAcceptanceAndFallsAtCompletion := by
  intro s t h
  cases move_of_step h with
  | command run exec =>
    obtain ⟨busy, done⟩ := execPending_completed exec
    exact ⟨fun _ hb => absurd (busy.symm.trans hb) Bool.false_ne_true, fun _ _ => .inl ⟨run, done⟩⟩
  | idle | look => exact no_edge rfl
  | @write off v issues =>
    rcases writeOffset_cases (afterIssue s) off v with ⟨-, hw⟩ | ⟨idle, rfl, hw⟩ | ⟨-, -, hw⟩ | ⟨-, hw⟩ <;> rw [hw]
    · exact no_edge rfl
    · exact ⟨fun _ _ => ⟨v, issues, rfl, rfl⟩, nofun⟩
    · exact no_edge rfl
    · exact no_edge rfl
  | reset turn next => exact ⟨nofun, fun _ _ => .inr ⟨turn, next⟩⟩

/-- KEY_INVALID after an execution: as before, set by a push that ends in error 1 or 4, or cleared by a command that
ends the key lifetime. -/
theorem Executes.keyInvalid_cases {s t : State} (hx : Executes s t) :
    t.status.keyInvalid = s.status.keyInvalid ∨
    (t.status.keyInvalid = true ∧ (∃ c, decode s.pending = .ok (.b32Push c)) ∧
      (t.status.errCode = 1 ∨ t.status.errCode = 4)) ∨
    (t.status.keyInvalid = false ∧ (decode s.pending = .ok .keyClear ∨ IsGenerate s.pending)) := by
  cases hx with
  | illegal | pushPoisoned | pushKept | pushStored => exact .inl rfl
  | pushRejected word => exact .inr (.inl ⟨rfl, ⟨_, word⟩, .inl rfl⟩)
  | pushOverflow word => exact .inr (.inl ⟨rfl, ⟨_, word⟩, .inr rfl⟩)
  | keyClear word => exact .inr (.inr ⟨rfl, .inl word⟩)
  | generatePoisoned word | generateEmpty word => exact .inr (.inr ⟨rfl, .inr word⟩)
  | totpDone word => exact .inr (.inr ⟨rfl, .inr (.inl word)⟩)
  | hotpDone word => exact .inr (.inr ⟨rfl, .inr (.inr word)⟩)

/-- Settles O49, by the three things an execution can do to KEY_INVALID. -/
theorem keyInvalidChangesOnlyAsItsRuleSays : Obligations.KeyInvalidChangesOnlyAsItsRuleSays := by
  intro s t h
  rcases step_changes h with ⟨run, hx⟩ | ⟨reset, rfl⟩ | f
  · rcases hx.keyInvalid_cases with hk | ⟨hk, word, code⟩ | ⟨hk, word⟩
    · exact no_edge hk
    · exact ⟨fun _ _ => ⟨run, word, code⟩, fun _ h0 => absurd (h0.symm.trans hk) Bool.false_ne_true⟩
    · exact ⟨fun _ h1 => absurd (hk.symm.trans h1) Bool.false_ne_true, fun _ _ => .inl ⟨run, word⟩⟩
  · exact ⟨nofun, fun _ _ => .inr reset⟩
  · exact no_edge f.keyInvalid

/-- RESULT_VALID and ERRCODE after an execution (10_state.md R30). -/
theorem Executes.resultValid {s t : State} (hx : Executes s t) :
    (IsGenerate s.pending →
      (t.status.errCode = 0 ∧ t.status.resultValid = true) ∨
      ((t.status.errCode = 2 ∨ t.status.errCode = 3) ∧ t.status.resultValid = false)) ∧
    (¬ IsGenerate s.pending → t.status.resultValid = s.status.resultValid) := by
  have other : ∀ {i}, decode s.pending = .ok i → i ≠ .totpGen → i ≠ .hotpGen → ¬ IsGenerate s.pending := by
    rintro i hi hT hH (h | h) <;> rw [hi] at h <;> cases h <;> contradiction
  cases hx with
  | illegal word =>
    refine ⟨?_, fun _ => rfl⟩
    rintro (h | h) <;> exact nomatch word.symm.trans h
  | keyClear word | pushPoisoned word | pushRejected word | pushOverflow word | pushKept word | pushStored word =>
    exact ⟨fun h => absurd h (other word nofun nofun), fun _ => rfl⟩
  | generatePoisoned word => exact ⟨fun _ => .inr ⟨.inr rfl, rfl⟩, fun h => absurd word h⟩
  | generateEmpty word => exact ⟨fun _ => .inr ⟨.inl rfl, rfl⟩, fun h => absurd word h⟩
  | totpDone word => exact ⟨fun _ => .inl ⟨rfl, rfl⟩, fun h => absurd (.inl word) h⟩
  | hotpDone word => exact ⟨fun _ => .inl ⟨rfl, rfl⟩, fun h => absurd (.inr word) h⟩

/-- Settles O50: the ENGINE's step executes the pending word, and `Executes.resultValid` says the rest. -/
theorem resultValidTellsOfTheLastGenerate : Obligations.ResultValidTellsOfTheLastGenerate := by
  refine ⟨fun s run => ?_, fun _ => rfl⟩
  obtain ⟨e, u, hx, -⟩ := execPending_completes (popTurn s)
  obtain ⟨generate, other⟩ := (executes_of_execPending hx).resultValid
  exact ⟨_, (step_engineRuns run).trans hx, generate, fun hT hH => other fun h => h.elim hT hH⟩

@[simp] theorem afterIssue_status (s : State) : (afterIssue s).status = s.status := rfl

/-- OVERRUN rises at a write that finds BUSY = 1, and falls at a write to STATUS with bit 3 or at a reset. -/
theorem Move.overrun_edges {s t : State} (m : Move s t) :
    (s.status.overrun = false → t.status.overrun = true →
      s.status.busy = true ∧ ∃ addr v, HostIssues (.write addr 4 v) s) ∧
    (s.status.overrun = true → t.status.overrun = false →
      (s.status.busy = false ∧ ∃ v, v.getLsbD 3 = true ∧ HostIssues (wr s.config 0x04 v) s) ∨
      (nextAgent s = .host ∧ s.host.head? = some .reset)) := by
  cases m with
  | command run exec => exact no_edge (execPending_frame exec).overrun
  | idle | look => exact no_edge rfl
  | @write off v issues =>
    rcases writeOffset_cases (afterIssue s) off v with ⟨busy, hw⟩ | ⟨-, -, hw⟩ | ⟨idle, rfl, hw⟩ | ⟨-, hw⟩ <;> rw [hw]
    · exact ⟨fun _ _ => ⟨busy, _, v, issues⟩, nofun⟩
    · exact no_edge rfl
    · refine ⟨fun h0 h1 => ?_, fun h1 h0 => .inl ⟨idle, v, ?_, issues⟩⟩
      · simp [h0] at h1
      · simpa [h1] using h0
    · exact no_edge rfl
  | reset turn next => exact ⟨nofun, fun _ _ => .inr ⟨turn, next⟩⟩

/-- Settles O51: ERRCODE is in the HOST's frame, and OVERRUN has the edges above. -/
theorem errCodeAndOverrunHaveTheirWriters : Obligations.ErrCodeAndOverrunHaveTheirWriters := by
  intro s t h
  refine ⟨fun changed => ?_, (move_of_step h).overrun_edges⟩
  rcases step_changes h with ⟨run, -⟩ | ⟨reset, -⟩ | f
  · exact .inl run
  · exact .inr reset
  · exact absurd f.errCode changed

end Sys2Proof.Machine
end

section
/-! What the HOST can learn: the registers never show KEY, BITBUF or PENDING (10_state.md R45 to R47, 20_memory.md
R60). -/

namespace Sys2Proof.Machine

/-- `s` with other hidden contents. -/
def withHidden (k : Memory) (b : BitVec 7) (p : Word) (s : State) : State :=
  { s with key := k, bitBuf := b, pending := p }

/-- What the HOST has of a state: the values read, its own program, STATUS and the result registers. -/
structure SameView (t t' : State) : Prop where
  reads : t'.reads = t.reads
  host : t'.host = t.host
  status : t'.status = t.status
  results : t'.results = t.results

section Hidden

variable (k : Memory) (b : BitVec 7) (p : Word)

theorem readOffset_withHidden (s : State) (off : Nat) : readOffset (withHidden k b p s) off = readOffset s off := by
  unfold readOffset
  cases regAt off with
  | none => rfl
  | some r => cases r <;> rfl

theorem busRead_withHidden (s : State) (addr size : Nat) :
    busRead (withHidden k b p s) addr size = busRead s addr size :=
  congrArg (Except.map · (busOffset s addr size)) (funext (readOffset_withHidden k b p s))

theorem writeReg_withHidden (v : Word) (s : State) (r : Reg) :
    SameView (writeReg v s r) (writeReg v (withHidden k b p s) r) := by
  cases r <;> exact ⟨rfl, rfl, rfl, rfl⟩

theorem writeOffset_withHidden (s : State) (off : Nat) (v : Word) :
    SameView (writeOffset s off v) (writeOffset (withHidden k b p s) off v) := by
  cases hb : s.status.busy with
  | true =>
    rw [writeOffset_busy hb, writeOffset_busy (s := withHidden k b p s) hb]
    exact ⟨rfl, rfl, rfl, rfl⟩
  | false =>
    cases hr : regAt off with
    | none =>
      rw [writeOffset_reserved hb hr, writeOffset_reserved (s := withHidden k b p s) hb hr]
      exact ⟨rfl, rfl, rfl, rfl⟩
    | some r =>
      rw [writeOffset_reg hb hr, writeOffset_reg (s := withHidden k b p s) hb hr]
      exact writeReg_withHidden k b p v s r

theorem hostOp_withHidden {op : HostOp} {s t : State} (h : hostOp op s = .next t) :
    ∃ t', hostOp op (withHidden k b p s) = .next t' ∧ SameView t t' := by
  rcases hostOp_next h with ⟨addr, size, off, rfl, ho, rfl⟩ | ⟨addr, size, v, off, rfl, ho, rfl⟩ | ⟨rfl, hw, rfl⟩ |
    ⟨rfl, rfl⟩
  · have hr : busRead (withHidden k b p s) addr size = .ok (readOffset s off) :=
      (busRead_withHidden k b p s addr size).trans (busRead_ok.2 ⟨off, ho, rfl⟩)
    refine ⟨{ withHidden k b p s with reads := readOffset s off :: s.reads }, ?_, rfl, rfl, rfl, rfl⟩
    rw [hostOp, hr]
    rfl
  · have hw : busWrite (withHidden k b p s) addr size v = .ok (writeOffset (withHidden k b p s) off v) :=
      busWrite_ok.2 ⟨off, ho, rfl⟩
    exact ⟨_, by rw [hostOp, hw], writeOffset_withHidden k b p s off v⟩
  · refine ⟨_, hostOp_wait (s := withHidden k b p s) hw, ?_⟩
    cases hb : s.status.busy <;> simp only [withHidden, hb] <;> exact ⟨rfl, rfl, rfl, rfl⟩
  · exact ⟨_, rfl, rfl, rfl, rfl, rfl⟩

end Hidden

/-- Settles O41: the HOST's turn is idle or an operation, and neither shows the hidden contents. -/
theorem hostLearnsNoHiddenState : Obligations.HostLearnsNoHiddenState := by
  intro s t k b p turn h
  have turn' : nextAgent (withHidden k b p s) = .host := turn
  rw [step_host turn] at h
  obtain ⟨t', h', v⟩ : ∃ t', step (withHidden k b p s) = .next t' ∧ SameView t t' := by
    rw [step_host turn']
    cases hh : s.host with
    | nil =>
      cases (hostStep_nil (s := popTurn s) hh).symm.trans h
      exact ⟨_, hostStep_nil hh, rfl, rfl, rfl, rfl⟩
    | cons op ops =>
      rw [hostStep_cons (s := popTurn s) hh] at h
      rw [hostStep_cons (s := popTurn (withHidden k b p s)) hh]
      exact hostOp_withHidden k b p h
  exact ⟨t', h', v.reads, v.host, v.status, v.results⟩

end Sys2Proof.Machine
end

section
/-! The layouts of the registers (10_state.md R23 to R44) and of HASH0 to HASH4 (R37). -/

namespace Sys2Proof.Machine

theorem wordBytes_be32 (S : List Byte) (i : Nat) :
    wordBytes (be32 S i) = [byteAt S i, byteAt S (i + 1), byteAt S (i + 2), byteAt S (i + 3)] := by
  have h0 := (byteAt S i).isLt
  have h1 := (byteAt S (i + 1)).isLt
  have h2 := (byteAt S (i + 2)).isLt
  have h3 := (byteAt S (i + 3)).isLt
  simp only [wordBytes, List.cons.injEq, and_true]
  refine ⟨?_, ?_, ?_, ?_⟩ <;> apply BitVec.eq_of_toNat_eq <;>
    simp only [BitVec.extractLsb'_toNat, toNat_be32, Nat.shiftRight_eq_div_pow] <;> omega

theorem byteAt_eq_getElem {S : List Byte} {i : Nat} (h : i < S.length) : byteAt S i = S[i] :=
  List.getD_eq_getElem S 0 h

/-- The four bytes of a word read inside a sequence are that part of the sequence. -/
theorem wordBytes_be32_eq_take {S : List Byte} {i : Nat} (h : i + 4 ≤ S.length) :
    wordBytes (be32 S i) = (S.drop i).take 4 := by
  rw [wordBytes_be32, byteAt_eq_getElem (by omega), byteAt_eq_getElem (by omega), byteAt_eq_getElem (by omega),
    byteAt_eq_getElem (by omega), List.drop_eq_getElem_cons (by omega), List.drop_eq_getElem_cons (by omega),
    List.drop_eq_getElem_cons (by omega), List.drop_eq_getElem_cons (by omega)]
  rfl

/-- Settles O27: the five words cut the twenty bytes into fours. -/
theorem hashRegistersHoldTheDigest : Obligations.HashRegistersHoldTheDigest := by
  intro hash r hlen
  have word : ∀ {i}, i ≤ 16 → wordBytes (be32 hash i) = (hash.drop i).take 4 := fun hi =>
    wordBytes_be32_eq_take (by omega)
  simp only [writeResults]
  rw [word (by decide), word (by decide), word (by decide), word (by decide), word (by decide), List.drop_zero,
    ← List.take_add, ← List.take_add, ← List.take_add, ← List.take_add, List.take_of_length_le (by omega)]

/-- STATUS as a number: each flag at its power of two, ERRCODE from bit 8 on (10_state.md R25). -/
theorem toNat_statusWord (f : Status) :
    (statusWord f).toNat = f.errCode.toNat * 2 ^ 8 + f.resultValid.toNat * 2 ^ 4 + f.overrun.toNat * 2 ^ 3 +
      f.keyInvalid.toNat * 2 ^ 2 + f.done.toNat * 2 + f.busy.toNat := by
  simp only [statusWord, toNat_append, BitVec.toNat_ofBool, BitVec.toNat_zero]
  ring

theorem statusWord_flags (f : Status) :
    (statusWord f).getLsbD 0 = f.busy ∧ (statusWord f).getLsbD 1 = f.done ∧
    (statusWord f).getLsbD 2 = f.keyInvalid ∧ (statusWord f).getLsbD 3 = f.overrun ∧
    (statusWord f).getLsbD 4 = f.resultValid := by
  simp only [statusWord, BitVec.getLsbD_append]
  simp

theorem statusWord_fields (f : Status) :
    (statusWord f).extractLsb' 5 3 = 0 ∧ (statusWord f).extractLsb' 8 4 = f.errCode ∧
    (statusWord f).extractLsb' 12 20 = 0 := by
  have h1 := f.busy.toNat_le
  have h2 := f.done.toNat_le
  have h3 := f.keyInvalid.toNat_le
  have h4 := f.overrun.toNat_le
  have h5 := f.resultValid.toNat_le
  have h6 := f.errCode.isLt
  refine ⟨?_, ?_, ?_⟩ <;> apply BitVec.eq_of_toNat_eq <;>
    simp only [BitVec.extractLsb'_toNat, toNat_statusWord, Nat.shiftRight_eq_div_pow, BitVec.ofNat_eq_ofNat,
      BitVec.toNat_ofNat] <;> omega

/-- A write to STATUS acts on bits 1 and 3 alone. -/
theorem statusWrite_congr {v v' : Word} (h1 : v.getLsbD 1 = v'.getLsbD 1) (h3 : v.getLsbD 3 = v'.getLsbD 3)
    (f : Status) : statusWrite v f = statusWrite v' f := by
  simp only [statusWrite, h1, h3]

/-- Settles O37: the bits and fields of the word, STATUS after reset, and the bits a write acts on. -/
theorem statusHasItsLayout : Obligations.StatusHasItsLayout := by
  refine ⟨fun f => ?_, fun _ => show statusWord Status.cleared = 0 by decide, fun v v' s h1 h3 => ?_⟩
  · obtain ⟨b0, b1, b2, b3, b4⟩ := statusWord_flags f
    exact ⟨b0, b1, b2, b3, b4, statusWord_fields f⟩
  · cases hb : s.status.busy with
    | true => rw [writeOffset_busy hb, writeOffset_busy hb]
    | false =>
      have hr : regAt 0x04 = some .status := rfl
      rw [writeOffset_reg hb hr, writeOffset_reg hb hr]
      simp only [writeReg, statusWrite_congr h1 h3]

theorem regAt_reserved {off : Nat} (h : 0x50 ≤ off) : regAt off = none := by
  cases hr : regAt off with
  | none => rfl
  | some r =>
    have hmem := mem_registerMap_of_regAt hr
    simp only [registerMap, List.mem_cons, Prod.mk.injEq, List.not_mem_nil, or_false] at hmem
    omega

theorem toNat_append_zeros (x : BitVec 16) : (x ++ 0#16).toNat = x.toNat * 2 ^ 16 := by
  rw [toNat_append, BitVec.toNat_zero, Nat.add_zero]

/-- Settles O36: the map names the register of each offset, and each is wide enough for its field. -/
theorem registerMapReadsEachField : Obligations.RegisterMapReadsEachField := by
  intro s hc
  have widen : ∀ {n} (x : BitVec n), n ≤ 32 → (x.setWidth 32).toNat = x.toNat := fun x h =>
    BitVec.toNat_setWidth_of_le h
  refine ⟨rfl, rfl, rfl, rfl, rfl, rfl, widen _ (by decide), widen _ (by decide), rfl, rfl, rfl, rfl, rfl,
    widen _ (by decide), widen _ (by decide), widen _ (by decide), rfl, toNat_append_zeros _, widen _ (by decide),
    toNat_readOffset_param hc, fun off h => ?_⟩
  rw [readOffset, regAt_reserved h]

end Sys2Proof.Machine
end

section
/-! KEY's canonical form is one (log 6). -/

namespace Sys2Proof.Machine

/-- Two canonical memories that read the same: the second lists no first address above that of the first one. -/
theorem Memory.head_le_of_read_eq {q q' : Host.Cell} {m m' : Memory} (hm : Memory.wf (q :: m))
    (hm' : Memory.wf (q' :: m')) (h : ∀ a, Memory.read (q :: m) a = Memory.read (q' :: m') a) : q'.1 ≤ q.1 := by
  obtain ⟨hq, -, -⟩ := Memory.wf_cons.1 hm
  obtain ⟨-, hlt, -⟩ := Memory.wf_cons.1 hm'
  by_contra hlow
  have h0 : Memory.read (q' :: m') q.1 = 0 := by
    refine Memory.read_of_lt fun r hr => ?_
    rcases List.mem_cons.1 hr with rfl | hr
    · omega
    · have := hlt r hr; omega
  rw [← h, Memory.read_cons, if_pos rfl] at h0
  exact hq h0

/-- Settles O56, by induction on the two lists: their first cells agree, and so do the rests. -/
theorem equalReadsMeanEqualMemories : Obligations.EqualReadsMeanEqualMemories := by
  intro m
  induction m with
  | nil =>
    intro m' _ hm' h
    cases m' with
    | nil => rfl
    | cons q m' =>
      have hq := h q.1
      rw [Memory.read_cons, if_pos rfl, Memory.read_nil] at hq
      exact absurd hq.symm (Memory.wf_cons.1 hm').1
  | cons q m ih =>
    intro m' hm hm' h
    cases m' with
    | nil =>
      have hq := h q.1
      rw [Memory.read_cons, if_pos rfl, Memory.read_nil] at hq
      exact absurd hq (Memory.wf_cons.1 hm).1
    | cons q' m' =>
      have haddr : q.1 = q'.1 :=
        Nat.le_antisymm (Memory.head_le_of_read_eq hm' hm fun a => (h a).symm) (Memory.head_le_of_read_eq hm hm' h)
      obtain ⟨-, hlt, hm⟩ := Memory.wf_cons.1 hm
      obtain ⟨-, hlt', hm'⟩ := Memory.wf_cons.1 hm'
      have hbyte := h q.1
      rw [Memory.read_cons, if_pos rfl, Memory.read_cons, if_pos haddr.symm] at hbyte
      have hrest : ∀ a, Memory.read m a = Memory.read m' a := by
        intro a
        by_cases ha : q.1 = a
        · subst ha
          rw [Memory.read_of_lt hlt, Memory.read_of_lt (haddr ▸ hlt')]
        · have ha' := h a
          rwa [Memory.read_cons, if_neg ha, Memory.read_cons, if_neg (haddr ▸ ha)] at ha'
      rw [Prod.ext haddr hbyte, ih m' hm hm' hrest]

end Sys2Proof.Machine
end

section
/-! The HOST's accesses to the window: which have a meaning, what a read returns, and what a write does by offset
(20_memory.md R62 to R65, R70). -/

namespace Sys2Proof.Machine

@[simp] theorem readOffset_afterIssue (s : State) (off : Nat) : readOffset (afterIssue s) off = readOffset s off := by
  unfold readOffset
  cases regAt off with
  | none => rfl
  | some r => cases r <;> rfl

/-- The HOST's step with an admitted read: the value joins the record, as it is before the step. -/
theorem step_rd {s : State} {off : Nat} (issues : HostIssues (rd s.config off) s) (hoff : off < 0x100)
    (h4 : off % 4 = 0) :
    step s = .next { afterIssue s with reads := readOffset s off :: s.reads } := by
  rw [step_hostIssues issues, ← readOffset_afterIssue s off]
  exact hostOp_rd (s := afterIssue s) issues.wasReset hoff h4

/-- The HOST's step with an admitted write. -/
theorem step_wr {s : State} {off : Nat} {v : Word} (issues : HostIssues (wr s.config off v) s) (hoff : off < 0x100)
    (h4 : off % 4 = 0) : step s = .next (writeOffset (afterIssue s) off v) := by
  rw [step_hostIssues issues]
  exact hostOp_wr (s := afterIssue s) issues.wasReset hoff h4 v

/-- Settles O35: the record is the HOST's own, and nothing else is written. -/
theorem readReturnsTheRegisterAndChangesNothing : Obligations.ReadReturnsTheRegisterAndChangesNothing :=
  fun _ _ hoff h4 issues => step_rd issues hoff h4

/-- No register from KEY_LEN on can be written, and reserved offsets hold none (20_memory.md R65). -/
theorem writeOffset_readOnly {s : State} (idle : s.status.busy = false) {off : Nat} (h : 0x18 ≤ off) (v : Word) :
    writeOffset s off v = s := by
  cases hr : regAt off with
  | none => exact writeOffset_reserved idle hr v
  | some r =>
    have hmem := mem_registerMap_of_regAt hr
    rw [writeOffset_reg idle hr]
    cases r with
    | cmd | status | timeLo | timeHi | ctrLo | ctrHi =>
      simp only [registerMap, List.mem_cons, Prod.mk.injEq, reduceCtorEq, List.not_mem_nil, and_true, and_false,
        or_false, false_or] at hmem
      omega
    | _ => rfl

/-- A write to STATUS clears DONE by bit 1 and OVERRUN by bit 3 (20_memory.md R65). -/
theorem statusWrite_eq (v : Word) (f : Status) :
    statusWrite v f =
      { f with
        done := if v.getLsbD 1 then false else f.done
        overrun := if v.getLsbD 3 then false else f.overrun } := by
  unfold statusWrite
  cases v.getLsbD 1 <;> cases v.getLsbD 3 <;> simp

/-- Settles O38: a busy block drops the write, and an idle one hands it to the register of the offset. -/
theorem writeIsDroppedOrActsByOffset : Obligations.WriteIsDroppedOrActsByOffset := by
  intro s off v hoff h4 issues
  rw [step_wr issues hoff h4]
  refine ⟨fun busy => by rw [writeOffset_busy (s := afterIssue s) busy]; rfl, fun idle => ?_⟩
  have reg : ∀ {r}, regAt off = some r → writeOffset (afterIssue s) off v = writeReg v (afterIssue s) r :=
    fun hr => writeOffset_reg (s := afterIssue s) idle hr v
  refine ⟨?_, ?_, ?_, ?_, ?_, ?_, fun h => by rw [writeOffset_readOnly (s := afterIssue s) idle h]⟩
  · rintro rfl; rw [reg (r := .cmd) rfl]; rfl
  · rintro rfl; rw [reg (r := .status) rfl, writeReg, statusWrite_eq]; rfl
  · rintro rfl; rw [reg (r := .timeLo) rfl]; rfl
  · rintro rfl; rw [reg (r := .timeHi) rfl]; rfl
  · rintro rfl; rw [reg (r := .ctrLo) rfl]; rfl
  · rintro rfl; rw [reg (r := .ctrHi) rfl]; rfl

/-- 20_memory.md R62's condition on an access. -/
def Admitted (c : Config) (addr size : Nat) : Prop :=
  size = 4 ∧ c.base ≤ addr ∧ addr < c.base + 0x100 ∧ (addr - c.base) % 4 = 0

/-- After a reset an admitted access reaches its offset. -/
theorem busOffset_of_admitted {s : State} (hw : s.wasReset = true) {addr size : Nat}
    (h : Admitted s.config addr size) : busOffset s addr size = .ok (addr - s.config.base) := by
  obtain ⟨hsize, hlow, hhigh, halign⟩ := h
  exact busOffset_ok.2 ⟨hw, hsize, by omega, by omega, halign⟩

/-- After a reset any other access is refused by the width, the window or the alignment. -/
theorem busOffset_of_not_admitted {s : State} (hw : s.wasReset = true) {addr size : Nat}
    (h : ¬ Admitted s.config addr size) : ∃ r, r ≠ .beforeFirstReset ∧ busOffset s addr size = .error r := by
  simp only [busOffset, hw, Bool.not_true, Bool.false_eq_true, if_false, admittedOffset]
  split
  · exact ⟨.busWidth, nofun, rfl⟩
  · split
    · exact ⟨.busWindow, nofun, rfl⟩
    · split
      · exact ⟨.busAlignment, nofun, rfl⟩
      · exact absurd ⟨by omega, by omega, by omega, by omega⟩ h

/-- The operation is a read or a write at the address and the width. -/
def IsAccess (op : HostOp) (addr size : Nat) : Prop := op = .read addr size ∨ ∃ v, op = .write addr size v

/-- A read or a write whose address reaches an offset answers a next state. -/
theorem hostOp_access_ok {op : HostOp} {s : State} {addr size off : Nat} (access : IsAccess op addr size)
    (h : busOffset s addr size = .ok off) : ∃ t, hostOp op s = .next t := by
  rcases access with rfl | ⟨v, rfl⟩
  · exact ⟨{ s with reads := readOffset s off :: s.reads }, by simp only [hostOp, busRead, h, Except.map]⟩
  · exact ⟨writeOffset s off v, by simp only [hostOp, busWrite, h, Except.map]⟩

/-- A read or a write whose address reaches none is refused for the same reason. -/
theorem hostOp_access_error {op : HostOp} {s : State} {addr size : Nat} {r : Refusal} (access : IsAccess op addr size)
    (h : busOffset s addr size = .error r) : hostOp op s = .refused r := by
  rcases access with rfl | ⟨v, rfl⟩
  · simp only [hostOp, busRead, h, Except.map]
  · simp only [hostOp, busWrite, h, Except.map]

/-- Settles O39: the step answers what the bus answers to the address and the width. -/
theorem onlyAdmittedAccessesHaveAMeaning : Obligations.OnlyAdmittedAccessesHaveAMeaning := by
  intro s addr size op access issues
  rw [step_hostIssues issues]
  have hw : (afterIssue s).wasReset = true := issues.wasReset
  constructor
  · intro admitted
    exact hostOp_access_ok access (busOffset_of_admitted hw admitted)
  · intro other
    obtain ⟨r, hr, hb⟩ := busOffset_of_not_admitted hw other
    exact ⟨r, hr, hostOp_access_error access hb⟩

/-- Settles O52: a command keeps its word, and a write that finds BUSY = 1 is dropped. -/
theorem pendingWordIsFixedWhileBusy : Obligations.PendingWordIsFixedWhileBusy := by
  intro s t h busy
  cases move_of_step h with
  | command run exec => exact .inl (execPending_frame exec).pending
  | idle | look => exact .inl rfl
  | write => exact .inl (by rw [writeOffset_busy (s := afterIssue s) busy]; rfl)
  | reset turn next => exact .inr ⟨turn, next⟩

end Sys2Proof.Machine
end

section
/-! SUPPORT. A command word as its three fields, and the decoder's answer as equations about them (30_encoding.md R80
to R84, R90). -/

namespace Sys2Proof

@[simp] theorem rsvdField_append (r : BitVec 16) (a o : Byte) : rsvdField (r ++ a ++ o) = r := by
  rw [rsvdField, BitVec.append_assoc]
  exact BitVec.extractLsb'_append_eq_left (b := a ++ o)

@[simp] theorem argField_append (r : BitVec 16) (a o : Byte) : argField (r ++ a ++ o) = a := by
  rw [argField, BitVec.extractLsb'_append_eq_of_le (le_refl 8)]
  exact BitVec.extractLsb'_append_eq_right

@[simp] theorem opField_append (r : BitVec 16) (a o : Byte) : opField (r ++ a ++ o) = o :=
  BitVec.extractLsb'_append_eq_right

theorem word_eq_append_fields (w : Word) : w = rsvdField w ++ argField w ++ opField w := by
  apply BitVec.eq_of_toNat_eq
  simp only [Machine.toNat_append, rsvdField, argField, opField, BitVec.extractLsb'_toNat, Nat.shiftRight_eq_div_pow]
  omega

theorem eq_append_iff {w : Word} {r : BitVec 16} {a o : Byte} :
    w = r ++ a ++ o ↔ rsvdField w = r ∧ argField w = a ∧ opField w = o := by
  constructor
  · rintro rfl
    exact ⟨rsvdField_append r a o, argField_append r a o, opField_append r a o⟩
  · rintro ⟨rfl, rfl, rfl⟩
    exact word_eq_append_fields w

/-- The OP of a command (30_encoding.md R84). -/
def Instr.op : Instr → Byte
  | .keyClear => 0x01
  | .b32Push _ => 0x02
  | .totpGen => 0x03
  | .hotpGen => 0x04

/-- The ARG of a command, 0 where it takes no operand (30_encoding.md R82). -/
def Instr.arg : Instr → Byte
  | .b32Push c => c
  | .keyClear | .totpGen | .hotpGen => 0

theorem encode_eq_append (i : Instr) : encode i = 0#16 ++ i.arg ++ i.op := by cases i <;> rfl

theorem eq_encode_iff {w : Word} {i : Instr} :
    w = encode i ↔ rsvdField w = 0 ∧ argField w = i.arg ∧ opField w = i.op := by
  rw [encode_eq_append]
  exact eq_append_iff

theorem withoutOperand_eq_ok {w : Word} {i j : Instr} : withoutOperand w i = .ok j ↔ argField w = 0 ∧ i = j := by
  unfold withoutOperand
  split <;> rename_i ha
  · simp only [ha, Except.ok.injEq, true_and]
  · simp only [ha, reduceCtorEq, false_and]

/-- The branch of the decoder that answers a command is that of its OP. -/
theorem decode_eq_ok_iff {w : Word} {i : Instr} :
    decode w = .ok i ↔ rsvdField w = 0 ∧ argField w = i.arg ∧ opField w = i.op := by
  constructor
  · intro h
    unfold decode at h
    split at h
    · cases h
    have hr : rsvdField w = 0 := not_not.1 ‹_›
    split at h
    · obtain ⟨ha, rfl⟩ := withoutOperand_eq_ok.1 h
      exact ⟨hr, ha, ‹_›⟩
    split at h
    · cases h
      exact ⟨hr, rfl, ‹_›⟩
    split at h
    · obtain ⟨ha, rfl⟩ := withoutOperand_eq_ok.1 h
      exact ⟨hr, ha, ‹_›⟩
    split at h
    · obtain ⟨ha, rfl⟩ := withoutOperand_eq_ok.1 h
      exact ⟨hr, ha, ‹_›⟩
    · cases h
  · rintro ⟨hr, ha, ho⟩
    cases i with
    | b32Push c => simp [decode, hr, ho, Instr.op, ← (show argField w = c from ha)]
    | keyClear | totpGen | hotpGen =>
      simp [decode, withoutOperand, hr, (show argField w = 0 from ha), ho, Instr.op]

/-- Settles O2: the decoder's answer and the encoded word are the same equations about the three fields. -/
theorem decodeAndEncodeAgree : Obligations.DecodeAndEncodeAgree :=
  fun _ _ _ => decode_eq_ok_iff.trans eq_encode_iff.symm

theorem decode_eq_ok_iff_eq_encode {w : Word} {i : Instr} : decode w = .ok i ↔ w = encode i :=
  decodeAndEncodeAgree i (by cases i <;> rfl) w

end Sys2Proof
end

section
/-! SUPPORT. The words each command is decoded from, and the legal words (30_encoding.md R84, R85, R90). -/

namespace Sys2Proof

/-- The mask of B32_PUSH keeps RSVD and OP and drops ARG. -/
theorem and_pushMask (w : Word) : w &&& 0xFFFF00FF = rsvdField w ++ 0x00#8 ++ opField w := by
  calc w &&& 0xFFFF00FF
      = (rsvdField w ++ argField w ++ opField w) &&& (BitVec.allOnes 16 ++ 0x00#8 ++ BitVec.allOnes 8) :=
        congrArg₂ _ (word_eq_append_fields w) (by decide)
    _ = rsvdField w ++ 0x00#8 ++ opField w := by
        rw [BitVec.and_append, BitVec.and_append, BitVec.and_allOnes, BitVec.and_allOnes, BitVec.and_zero]

theorem and_pushMask_eq_iff {w : Word} : w &&& 0xFFFF00FF = 0x00000002 ↔ rsvdField w = 0 ∧ opField w = 0x02 := by
  rw [and_pushMask, eq_comm, eq_append_iff]
  exact ⟨fun ⟨hr, _, ho⟩ => ⟨hr.symm, ho.symm⟩, fun ⟨hr, ho⟩ => ⟨hr.symm, rfl, ho.symm⟩⟩

theorem decode_eq_b32Push_iff {w : Word} {c : Byte} :
    decode w = .ok (.b32Push c) ↔ w &&& 0xFFFF00FF = 0x00000002 ∧ c = argField w := by
  rw [decode_eq_ok_iff, and_pushMask_eq_iff]
  exact ⟨fun ⟨hr, ha, ho⟩ => ⟨⟨hr, ho⟩, ha.symm⟩, fun ⟨⟨hr, ho⟩, ha⟩ => ⟨hr, ha.symm, ho⟩⟩

theorem exists_decode_error_iff {w : Word} : (∃ e, decode w = .error e) ↔ ¬ ∃ i, decode w = .ok i := by
  cases decode w <;> simp

theorem exists_decode_ok_iff {w : Word} :
    (∃ i, decode w = .ok i) ↔
      decode w = .ok .keyClear ∨ (∃ c, decode w = .ok (.b32Push c)) ∨ decode w = .ok .totpGen ∨
        decode w = .ok .hotpGen := by
  constructor
  · rintro ⟨i, h⟩
    cases i with
    | keyClear => exact .inl h
    | b32Push c => exact .inr (.inl ⟨c, h⟩)
    | totpGen => exact .inr (.inr (.inl h))
    | hotpGen => exact .inr (.inr (.inr h))
  · rintro (h | ⟨c, h⟩ | h | h) <;> exact ⟨_, h⟩

/-- Settles O1: three commands are one word each, B32_PUSH is a masked pattern, and an error is the rest. -/
theorem decodeFollowsTheWordPatterns : Obligations.DecodeFollowsTheWordPatterns := by
  intro w
  have keyClear : decode w = .ok .keyClear ↔ w = 0x00000001 := decode_eq_ok_iff_eq_encode
  have totpGen : decode w = .ok .totpGen ↔ w = 0x00000003 := decode_eq_ok_iff_eq_encode
  have hotpGen : decode w = .ok .hotpGen ↔ w = 0x00000004 := decode_eq_ok_iff_eq_encode
  refine ⟨keyClear, fun c => decode_eq_b32Push_iff, totpGen, hotpGen, ?_⟩
  rw [exists_decode_error_iff, exists_decode_ok_iff, keyClear, totpGen, hotpGen]
  simp only [decode_eq_b32Push_iff, exists_and_left, exists_eq, and_true]

/-- The row of its mnemonic selects the word of every command. -/
theorem encodedRow (i : Instr) : Laws.EncodedRow.Statement i := by
  cases i with
  | keyClear => exact Laws.EncodedRow.keyClear
  | b32Push c => exact Laws.EncodedRow.b32Push c
  | totpGen => exact Laws.EncodedRow.totpGen
  | hotpGen => exact Laws.EncodedRow.hotpGen

theorem opcodeMap_mnemonic_injective :
    ∀ r ∈ opcodeMap, ∀ r' ∈ opcodeMap, r.mnemonic = r'.mnemonic → r = r' := by decide

theorem exists_decode_of_rowSelects {r : OpcodeRow} (hr : r ∈ opcodeMap) {w : Word} (h : rowSelects r w = true) :
    ∃ i, decode w = .ok i ∧ i.mnemonic = r.mnemonic := by
  obtain ⟨keyClear, b32Push, totpGen, hotpGen, -⟩ := decodeFollowsTheWordPatterns w
  have hw : w &&& r.mask = r.pattern := eq_of_beq h
  have full : w &&& 0xFFFFFFFF = w := BitVec.and_allOnes
  simp only [opcodeMap, List.mem_cons, List.not_mem_nil, or_false] at hr
  rcases hr with rfl | rfl | rfl | rfl
  · exact ⟨_, keyClear.2 (full.symm.trans hw), rfl⟩
  · exact ⟨_, (b32Push _).2 ⟨hw, rfl⟩, rfl⟩
  · exact ⟨_, totpGen.2 (full.symm.trans hw), rfl⟩
  · exact ⟨_, hotpGen.2 (full.symm.trans hw), rfl⟩

theorem exists_row_of_decode {w : Word} {i : Instr} (h : decode w = .ok i) :
    ∃ r ∈ opcodeMap, rowSelects r w = true := by
  obtain ⟨-, r, hr, -, hsel⟩ := encodedRow i
  exact ⟨r, hr, decode_eq_ok_iff_eq_encode.1 h ▸ hsel⟩

/-- Settles O3: a row that selects a word has the mnemonic of its one instruction, and a mnemonic has one row. -/
theorem eachLegalWordSelectsOneRow : Obligations.EachLegalWordSelectsOneRow := by
  refine fun w => ⟨?_, ?_, fun r hr => exists_decode_of_rowSelects hr⟩
  · rw [← Machine.decode_isOk_iff_legal]
    constructor
    · rintro ⟨i, h⟩
      exact exists_row_of_decode h
    · rintro ⟨r, hr, h⟩
      obtain ⟨i, hi, -⟩ := exists_decode_of_rowSelects hr h
      exact ⟨i, hi⟩
  · intro r hr r' hr' h h'
    obtain ⟨i, hi, hm⟩ := exists_decode_of_rowSelects hr h
    obtain ⟨i', hi', hm'⟩ := exists_decode_of_rowSelects hr' h'
    cases hi.symm.trans hi'
    exact opcodeMap_mnemonic_injective r hr r' hr' (hm.symm.trans hm')

/-- Every command once, B32_PUSH with each of its 256 operands. -/
def allInstrs : List Instr :=
  [.keyClear, .totpGen, .hotpGen] ++ List.ofFn fun c : Fin 256 => .b32Push (BitVec.ofFin c)

theorem mem_allInstrs (i : Instr) : i ∈ allInstrs := by
  cases i with
  | b32Push c => exact List.mem_append_right _ (List.mem_ofFn.2 ⟨c.toFin, rfl⟩)
  | keyClear | totpGen | hotpGen => exact List.mem_append_left _ (by decide)

theorem nodup_allInstrs : allInstrs.Nodup := by
  refine List.Nodup.append (by decide) (List.nodup_ofFn.2 fun c c' h => ?_) ?_
  · injection h with h
    injection h
  · intro i h h'
    obtain ⟨c, rfl⟩ := List.mem_ofFn.1 h'
    simp at h

theorem encode_injective : Function.Injective encode := fun _ _ h =>
  Except.ok.inj ((decode_eq_ok_iff_eq_encode.2 rfl).symm.trans (decode_eq_ok_iff_eq_encode.2 h))

/-- Settles O4: the legal words are the words of the 3 + 256 commands, and no two have the same word. -/
theorem thereAre259LegalWords : Obligations.ThereAre259LegalWords := by
  refine ⟨allInstrs.map encode, nodup_allInstrs.map encode_injective, ?_, fun w => ?_⟩
  · rw [List.length_map, allInstrs, List.length_append, List.length_ofFn]
    rfl
  · rw [← Machine.decode_isOk_iff_legal, List.mem_map]
    constructor
    · rintro ⟨i, -, rfl⟩
      exact ⟨i, decode_eq_ok_iff_eq_encode.2 rfl⟩
    · rintro ⟨i, h⟩
      exact ⟨i, mem_allInstrs i, (decode_eq_ok_iff_eq_encode.1 h).symm⟩

/-- Settles O5: six words are those the encoder writes, and three show one field each that is refused. -/
theorem wordsWrittenOutDecode : Obligations.WordsWrittenOutDecode := by
  have ok : ∀ {w i}, w = encode i → decode w = .ok i := decode_eq_ok_iff_eq_encode.2
  exact ⟨ok rfl, ok rfl, ok rfl, ok rfl, ok rfl, ok rfl, rfl, rfl, rfl⟩

end Sys2Proof
end

section
/-! A word written to CMD: its acceptance, the execution of an illegal word, and `DO` of a command (30_encoding.md R86,
R93; 60_exceptions.md R202, R203). -/

namespace Sys2Proof.Machine

/-- The HOST's step with a write to CMD of an idle block: the word is accepted, whatever it is. -/
theorem step_wr_cmd {s : State} {w : Word} (issues : HostIssues (wr s.config 0x00 w) s)
    (idle : s.status.busy = false) : step s = .next (accept w (afterIssue s)) := by
  rw [step_wr issues (by decide) (by decide), writeOffset_reg (s := afterIssue s) idle (r := .cmd) rfl]
  rfl

theorem exists_decode_error_of_not_legal {w : Word} (h : legal w = false) : ∃ e, decode w = .error e := by
  rw [exists_decode_error_iff, decode_isOk_iff_legal, h]
  exact Bool.false_ne_true

/-- Settles O8: acceptance checks nothing about the word, and its execution is a completion alone. -/
theorem illegalWordOnlyCompletes : Obligations.IllegalWordOnlyCompletes := by
  intro w illegal
  refine ⟨fun s issues idle => step_wr_cmd issues idle, ?_⟩
  rintro s run rfl
  obtain ⟨e, word⟩ := exists_decode_error_of_not_legal illegal
  exact (step_engineRuns run).trans (execPending_error (s := popTurn s) word)

/-- `s` with another program for the HOST. -/
def withHost (ops : List HostOp) (s : State) : State := { s with host := ops }

theorem withHost_host {s : State} {ops : List HostOp} (h : s.host = ops) : withHost ops s = s := by
  subst h
  rfl

theorem pushValue_withHost {v : BitVec 5} {s t : State} (ops : List HostOp) (h : pushValue v s = .next t) :
    pushValue v (withHost ops s) = .next (withHost ops t) := by
  rcases pushValue_cases v s with ⟨few, hv⟩ | ⟨many, full, hv⟩ | ⟨many, room, hv⟩ <;> cases hv.symm.trans h
  · exact pushValue_keep (s := withHost ops s) v few
  · exact pushValue_overflow (s := withHost ops s) v many full
  · exact pushValue_append (s := withHost ops s) v many room

theorem generateChecked_withHost {effect : State → State} {s t : State} {ops : List HostOp}
    (he : effect (withHost ops s) = withHost ops (effect s)) (h : generateChecked effect s = .next t) :
    generateChecked effect (withHost ops s) = .next (withHost ops t) := by
  rcases generateChecked_cases effect s with ⟨hi, hx⟩ | ⟨hi, hk, hx⟩ | ⟨ready, hx⟩ <;> cases hx.symm.trans h
  · exact generateChecked_poisoned (s := withHost ops s) effect hi
  · exact generateChecked_empty (s := withHost ops s) effect hi hk
  · have ready' : GenerateReady (withHost ops s) := ⟨ready.keyValid, ready.keyNonempty⟩
    rw [generateChecked_ready effect ready', he]
    rfl

/-- No command looks at the HOST's program. -/
theorem exec_withHost {i : Instr} {s t : State} (ops : List HostOp) (h : exec i s = .next t) :
    exec i (withHost ops s) = .next (withHost ops t) := by
  cases i with
  | keyClear => cases (exec_keyClear s).symm.trans h; rfl
  | b32Push c =>
    rcases exec_b32Push_cases c s with ⟨hi, hx⟩ | ⟨hi, hc, hx⟩ | ⟨hi, v, hc, hx⟩
    · cases hx.symm.trans h; exact exec_b32Push_poisoned (s := withHost ops s) hi c
    · cases hx.symm.trans h; exact exec_b32Push_invalid (s := withHost ops s) hi hc
    · exact (exec_b32Push_some (s := withHost ops s) hi hc).trans (pushValue_withHost ops (hx.symm.trans h))
  | totpGen => exact generateChecked_withHost rfl h
  | hotpGen => exact generateChecked_withHost rfl h

theorem popTurn_of_turns_nil {s : State} (h : s.turns = []) : popTurn s = s := by
  rw [popTurn, h, List.tail_nil, ← h]

theorem nextAgent_of_turns_nil {s : State} (h : s.turns = []) :
    nextAgent s = if s.wasReset && s.status.busy then .engine else .host := by
  simp only [nextAgent, h]

/-- With no schedule fixed the ENGINE moves while a command is pending. -/
theorem step_of_busy {s : State} (hw : s.wasReset = true) (busy : s.status.busy = true) (turns : s.turns = []) :
    step s = execPending s := by
  have run : EngineRuns s := ⟨hw, by rw [nextAgent_of_turns_nil turns, hw, busy]; rfl, busy⟩
  rw [step_engineRuns run, popTurn_of_turns_nil turns]

/-- With no schedule fixed the HOST moves on an idle block. -/
theorem hostIssues_of_idle {s : State} {op : HostOp} {ops : List HostOp} (hw : s.wasReset = true)
    (idle : s.status.busy = false) (turns : s.turns = []) (host : s.host = op :: ops) :
    HostIssues op s ∧ afterIssue s = withHost ops s :=
  ⟨⟨hw, by rw [nextAgent_of_turns_nil turns, hw, idle]; rfl, by rw [host]; rfl⟩,
    by rw [afterIssue, popTurn_of_turns_nil turns, host]; rfl⟩

/-- A poll that finds BUSY = 0 ends WAIT. -/
theorem step_wait_of_idle {s : State} {ops : List HostOp} (hw : s.wasReset = true) (idle : s.status.busy = false)
    (turns : s.turns = []) (host : s.host = .wait :: ops) : step s = .next (withHost ops s) := by
  obtain ⟨issues, after⟩ := hostIssues_of_idle hw idle turns host
  rw [step_hostIssues issues, hostOp_wait (s := afterIssue s) hw, afterIssue_status, idle, after]
  rfl

/-- Settles O54: the write, the command and the poll, one step each. -/
theorem doCommandExecutesTheCommand : Obligations.DoCommandExecutesTheCommand := by
  intro i s rest hw idle turns host
  obtain ⟨e, u, hx, frame⟩ := exec_completes i (accept (encode i) (withHost rest s))
  refine ⟨complete e u, hx, ?_⟩
  have write : step s = .next (accept (encode i) (withHost (.wait :: rest) s)) := by
    obtain ⟨issues, after⟩ := hostIssues_of_idle (ops := .wait :: rest) hw idle turns host
    rw [step_wr_cmd issues idle, after]
  have command : step (accept (encode i) (withHost (.wait :: rest) s)) =
      .next (withHost (.wait :: rest) (complete e u)) := by
    rw [step_of_busy (s := accept (encode i) (withHost (.wait :: rest) s)) hw rfl turns,
      execPending_ok (decode_eq_ok_iff_eq_encode.2 rfl)]
    exact exec_withHost (.wait :: rest) hx
  have poll : step (withHost (.wait :: rest) (complete e u)) = .next (complete e u) :=
    (step_wait_of_idle (s := withHost (.wait :: rest) (complete e u)) (frame.wasReset.trans hw) rfl
      (frame.turns.trans turns) rfl).trans (congrArg _ (withHost_host frame.host))
  rw [run_succ write, run_succ command, run_succ poll, run_zero]

end Sys2Proof.Machine
end

section
/-! The assembled words of the command lines (30_encoding.md R91; log 14). -/

namespace Sys2Proof.Machine

/-- The word of B32_PUSH as a number. -/
theorem toNat_encode_b32Push (c : Byte) : (encode (.b32Push c)).toNat = c.toNat * 0x100 + 0x02 := by
  simp only [encode, toNat_append]
  simp

/-- A line of B32_PUSH assembles to the word of its operand. -/
theorem toNat_assemble_push {operand : List Char} {n : Nat} (hn : n < 256)
    (h : charOperand operand = some (BitVec.ofNat 8 n)) :
    (assemble (['B', '3', '2', '_', 'P', 'U', 'S', 'H', ' '] ++ operand)).map BitVec.toNat =
      some (n * 0x100 + 0x02) := by
  have line : assemble (['B', '3', '2', '_', 'P', 'U', 'S', 'H', ' '] ++ operand) =
      ((charOperand operand).map .b32Push).map encode := rfl
  rw [line, h, Option.map_some, Option.map_some, Option.map_some, toNat_encode_b32Push, BitVec.toNat_ofNat,
    Nat.mod_eq_of_lt hn]

theorem charOperand_quoted {ch : Char} (h : ch.toNat < 128) :
    charOperand ['\'', ch, '\''] = some (BitVec.ofNat 8 ch.toNat) := if_pos h

/-- An operand that does not begin with a quote is a numeral. -/
theorem charOperand_numeral {cs : List Char} {n : Nat} (hq : cs.head? ≠ some '\'') (hv : numeralValue cs = some n)
    (hn : n < 256) : charOperand cs = some (BitVec.ofNat 8 n) := by
  unfold charOperand
  split
  · exact absurd rfl hq
  · simp only [hv, if_pos hn]

/-! ### Hexadecimal numerals -/

/-- The sixteen characters are the digits of their positions. -/
def HexDigits (digits : List Char) : Prop := ∀ d < 16, digitValue 16 (digits.getD d '0') = some d

theorem numeralValue_hex {digits : List Char} (h : HexDigits digits) {n : Nat} (hn : n < 256) :
    numeralValue ['0', 'x', digits.getD (n / 16) '0', digits.getD (n % 16) '0'] = some n := by
  have high := h (n / 16) (by omega)
  have low := h (n % 16) (by omega)
  have digitsOnly : numeralValue ['0', 'x', digits.getD (n / 16) '0', digits.getD (n % 16) '0'] =
      digitsValue 16 0 [digits.getD (n / 16) '0', digits.getD (n % 16) '0'] := rfl
  rw [digitsOnly]
  simp only [digitsValue, high, low, Option.some.injEq]
  omega

/-! ### Decimal numerals -/

theorem digitValue_of_isDigit {ch : Char} (h : ch.isDigit = true) : digitValue 10 ch = some (ch.toNat - 0x30) := by
  obtain ⟨h0, h9⟩ : 0x30 ≤ ch.toNat ∧ ch.toNat ≤ 0x39 := Char.isDigit_iff_toNat.1 h
  simp only [digitValue, if_pos (And.intro h0 h9)]
  exact if_pos (by omega)

/-- The model reads decimal digits as the library does. -/
theorem digitsValue_eq_ofDigitChars {cs : List Char} (h : ∀ ch ∈ cs, ch.isDigit = true) (acc : Nat) :
    digitsValue 10 acc cs = some (Nat.ofDigitChars 10 cs acc) := by
  induction cs generalizing acc with
  | nil => rfl
  | cons ch cs ih =>
    simp only [digitsValue, digitValue_of_isDigit (h ch List.mem_cons_self)]
    rw [ih (fun ch' hmem => h ch' (List.mem_cons_of_mem ch hmem)), Nat.ofDigitChars_cons, Nat.mul_comm 10 acc]
    rfl

theorem numeralValue_of_isDigit {cs : List Char} (hne : cs ≠ []) (h : ∀ ch ∈ cs, ch.isDigit = true) :
    numeralValue cs = digitsValue 10 0 cs := by
  have noHex : ∀ {cs'}, cs = '0' :: 'x' :: cs' → False := by
    rintro cs' rfl
    exact absurd (h 'x' (by simp)) (by decide)
  unfold numeralValue
  split
  · exact absurd rfl hne
  · exact (noHex rfl).elim
  · exact (noHex rfl).elim
  · rfl

theorem isDigit_of_mem_decimal {n : Nat} {ch : Char} (h : ch ∈ Nat.toDigits 10 n) : ch.isDigit = true :=
  Nat.isDigit_of_mem_toDigits (by decide) (by decide) h

theorem numeralValue_decimal (n : Nat) : numeralValue (Nat.toDigits 10 n) = some n := by
  rw [numeralValue_of_isDigit Nat.toDigits_ne_nil fun _ => isDigit_of_mem_decimal,
    digitsValue_eq_ofDigitChars fun _ => isDigit_of_mem_decimal, Nat.ofDigitChars_ten_toDigits]

theorem head?_decimal_ne_quote (n : Nat) : (Nat.toDigits 10 n).head? ≠ some '\'' := fun h =>
  absurd (isDigit_of_mem_decimal (List.mem_of_mem_head? h)) (by decide)

/-- Settles O55: an operand of each form has its code, and the line assembles to the word of that code. -/
theorem assembledLinesAreTheEncodedCommands : Obligations.AssembledLinesAreTheEncodedCommands := by
  refine ⟨rfl, rfl, rfl, fun ch h => ?_, fun c digits hd => ?_, fun c => ?_⟩
  · exact toNat_assemble_push (by omega) (charOperand_quoted h)
  · have hex : HexDigits digits := by
      simp only [List.mem_cons, List.not_mem_nil, or_false] at hd
      rcases hd with rfl | rfl
      · unfold HexDigits; decide
      · unfold HexDigits; decide
    exact toNat_assemble_push c.isLt (charOperand_numeral (by simp) (numeralValue_hex hex c.isLt) c.isLt)
  · exact toNat_assemble_push c.isLt
      (charOperand_numeral (head?_decimal_ne_quote _) (numeralValue_decimal _) c.isLt)

end Sys2Proof.Machine
end

section
/-! SUPPORT. The value of a character code, range by range (41_base32.md R100 to R103). -/

namespace Sys2Proof.Machine

theorem foldCase_lower {c : Byte} (h : 0x61 ≤ c.toNat ∧ c.toNat ≤ 0x7A) : (foldCase c).toNat = c.toNat - 0x20 := by
  have hc : (0x61 : Byte) ≤ c ∧ c ≤ 0x7A := h
  rw [foldCase, if_pos hc, BitVec.toNat_sub_of_le (BitVec.le_trans (by decide) hc.1)]
  rfl

theorem foldCase_other {c : Byte} (h : ¬ (0x61 ≤ c.toNat ∧ c.toNat ≤ 0x7A)) : foldCase c = c := if_neg h

/-- A letter after folding has the value of its distance from `A`. -/
theorem b32val_letter {c : Byte} (h : 0x41 ≤ (foldCase c).toNat ∧ (foldCase c).toNat ≤ 0x5A) :
    (b32val c).map BitVec.toNat = some ((foldCase c).toNat - 0x41) := by
  have hletter : (0x41 : Byte) ≤ foldCase c ∧ foldCase c ≤ 0x5A := h
  rw [b32val, if_pos hletter, Option.map_some, BitVec.toNat_setWidth, BitVec.toNat_sub_of_le hletter.1,
    Option.some_inj]
  exact Nat.mod_eq_of_lt (show (foldCase c).toNat - 0x41 < 2 ^ 5 by omega)

/-- A digit after folding has the value of its distance from `2`, after the letters. -/
theorem b32val_digit {c : Byte} (h : 0x32 ≤ (foldCase c).toNat ∧ (foldCase c).toNat ≤ 0x37) :
    (b32val c).map BitVec.toNat = some ((foldCase c).toNat - 0x32 + 26) := by
  have hdigit : (0x32 : Byte) ≤ foldCase c ∧ foldCase c ≤ 0x37 := h
  have hletter : ¬ ((0x41 : Byte) ≤ foldCase c ∧ foldCase c ≤ 0x5A) := fun hl => by
    have : 0x41 ≤ (foldCase c).toNat := hl.1
    omega
  rw [b32val, if_neg hletter, if_pos hdigit, Option.map_some, BitVec.toNat_setWidth, BitVec.toNat_add,
    BitVec.toNat_sub_of_le hdigit.1, Option.some_inj]
  show ((foldCase c).toNat - 0x32 + 26) % 2 ^ 8 % 2 ^ 5 = _
  omega

theorem b32val_none {c : Byte} (hletter : ¬ (0x41 ≤ (foldCase c).toNat ∧ (foldCase c).toNat ≤ 0x5A))
    (hdigit : ¬ (0x32 ≤ (foldCase c).toNat ∧ (foldCase c).toNat ≤ 0x37)) : b32val c = none :=
  (if_neg hletter).trans (if_neg hdigit)

/-- Settles O11: only the lowercase letters are folded, and the folded code is a letter, a digit or neither. -/
theorem characterValueOfEveryCode : Obligations.CharacterValueOfEveryCode := by
  intro c
  refine ⟨fun h => ?_, fun h => ?_, fun h => ?_, fun hupper hlower hdigit => ?_⟩
  · have hf := foldCase_other (c := c) (by omega)
    rw [b32val_letter (by rwa [hf]), hf]
  · have hf := foldCase_lower h
    rw [b32val_letter (by omega), hf, Nat.sub_sub]
  · have hf := foldCase_other (c := c) (by omega)
    rw [b32val_digit (by rwa [hf]), hf]
  · have hf := foldCase_other hlower
    exact b32val_none (by rwa [hf]) (by rwa [hf])

end Sys2Proof.Machine
end

section
/-! What ends a key lifetime, and what of the key a generate command looks at (41_base32.md R105, R109). -/

namespace Sys2Proof.Machine

/-- A command without an operand has no other ARG or RSVD than 0 (30_encoding.md R82, R83). -/
theorem exists_decode_error_of_keyClear_op {w : Word} (hop : opField w = 0x01)
    (hfields : argField w ≠ 0 ∨ rsvdField w ≠ 0) : ∃ e, decode w = .error e := by
  rw [exists_decode_error_iff]
  rintro ⟨i, hi⟩
  obtain ⟨hrsvd, harg, hi⟩ := decode_eq_ok_iff.1 hi
  rw [hop] at hi
  cases i with
  | keyClear => exact hfields.elim (absurd harg) (absurd hrsvd)
  | b32Push | totpGen | hotpGen => simp [Instr.op] at hi

/-- Settles O12: KEY_CLEAR is one completion of the zeroed key, and another word with its OP is illegal. -/
theorem keyClearEndsTheKeyLifetime : Obligations.KeyClearEndsTheKeyLifetime := by
  refine ⟨rfl, Memory.read_zeroed, exec_keyClear, fun s run hop hfields => ?_⟩
  obtain ⟨e, word⟩ := exists_decode_error_of_keyClear_op hop hfields
  exact ⟨_, (step_engineRuns run).trans (execPending_error (s := popTurn s) word), rfl, rfl, rfl, rfl, rfl, rfl⟩

/-- `s` with other bits left over in the decoder. -/
def withLeftover (b : BitVec 7) (n : BitVec 4) (s : State) : State := { s with bitBuf := b, bitCnt := n }

/-- A generate command whose own effect ends the same whatever bits are left over answers the same next state, with
none left over. -/
theorem generateChecked_withLeftover {effect : State → State} (s : State) (b : BitVec 7) (n : BitVec 4)
    (he : generateDone (effect (withLeftover b n s)) = generateDone (effect s)) :
    ∃ t, generateChecked effect s = .next t ∧ generateChecked effect (withLeftover b n s) = .next t ∧
      t.bitBuf = 0 ∧ t.bitCnt = 0 := by
  rcases generateChecked_cases effect s with ⟨hi, hx⟩ | ⟨hi, hk, hx⟩ | ⟨ready, hx⟩
  · exact ⟨_, hx, generateChecked_poisoned (s := withLeftover b n s) effect hi, rfl, rfl⟩
  · exact ⟨_, hx, generateChecked_empty (s := withLeftover b n s) effect hi hk, rfl, rfl⟩
  · have ready' : GenerateReady (withLeftover b n s) := ⟨ready.keyValid, ready.keyNonempty⟩
    exact ⟨_, hx, (generateChecked_ready effect ready').trans (congrArg _ he), rfl, rfl⟩

/-- Settles O33: the checks and the digest read KEY_INVALID, KEY_LEN and the key bytes alone. -/
theorem leftoverBitsAreIgnored : Obligations.LeftoverBitsAreIgnored := by
  rintro i s b n (rfl | rfl)
  · exact generateChecked_withLeftover (effect := totpEffect) s b n rfl
  · exact generateChecked_withLeftover (effect := hotpEffect) s b n rfl

end Sys2Proof.Machine
end

section
/-! SUPPORT. The decoder's operations as arithmetic on numbers, and what appending a byte makes of the key bytes
(41_base32.md R106). -/

namespace Sys2Proof.Machine

theorem pushedBits_lt {s : State} {cnt : Nat} (h : s.bitBuf.toNat < 2 ^ cnt) (v : BitVec 5) :
    pushedBits s v < 2 ^ (cnt + 5) := by
  have := v.isLt
  rw [pushedBits_eq, Nat.pow_add]
  omega

/-- A completed byte lies within the eight bits above those that stay. -/
theorem completedByte_mod (buf cnt : Nat) : completedByte (buf % 2 ^ (cnt + 8)) cnt = completedByte buf cnt := by
  apply BitVec.eq_of_toNat_eq
  rw [completedByte_toNat, completedByte_toNat, Nat.pow_add, Nat.mod_mul_right_div_self, Nat.mod_mod]

/-- A buffer of no more than those bits is its byte above the bits that stay. -/
theorem completedByte_toNat_of_lt {buf cnt : Nat} (h : buf < 2 ^ (cnt + 8)) :
    (completedByte buf cnt).toNat = buf / 2 ^ cnt := by
  rw [completedByte_toNat, Nat.mod_eq_of_lt (Nat.div_lt_of_lt_mul (by rwa [← Nat.pow_add]))]

theorem appendKeyByte_keyLen_toNat {s : State} (b : Byte) (h : s.keyLen.toNat < 65535) :
    (appendKeyByte b s).keyLen.toNat = s.keyLen.toNat + 1 := by
  rw [appendKeyByte_keyLen, BitVec.toNat_add, show (1 : BitVec 16).toNat = 1 from rfl]
  omega

/-- Appending a byte keeps the bytes below KEY_LEN and puts it after them. -/
theorem keyBytes_appendKeyByte {s : State} (canonical : Memory.wf s.key) (h : s.keyLen.toNat < 65535) (b : Byte) :
    keyBytes (appendKeyByte b s) = keyBytes s ++ [b] := by
  have below : ∀ i ∈ List.range s.keyLen.toNat,
      Memory.read (Memory.write s.key s.keyLen.toNat b) i = Memory.read s.key i := by
    intro i hi
    have := List.mem_range.1 hi
    rw [Memory.read_write canonical, if_neg (by omega)]
  rw [keyBytes, appendKeyByte_keyLen_toNat b h, appendKeyByte_key, List.range_succ, List.map_append,
    List.map_congr_left below, List.map_singleton, Memory.read_write canonical, if_pos rfl, keyBytes]

end Sys2Proof.Machine
end

section
/-! B32_PUSH, path by path (41_base32.md R106). -/

namespace Sys2Proof.Machine

/-- A push that completes no byte keeps all bits it has shifted in. -/
theorem keepBits_pushed_few {s : State} (few : s.bitCnt.toNat ≤ 2) (hbuf : s.bitBuf.toNat < 2 ^ s.bitCnt.toNat)
    (v : BitVec 5) :
    (keepBits (pushedBits s v) (pushedCount s) s).bitBuf.toNat = s.bitBuf.toNat * 2 ^ 5 + v.toNat ∧
    (keepBits (pushedBits s v) (pushedCount s) s).bitCnt.toNat = s.bitCnt.toNat + 5 := by
  have h7 : pushedCount s ≤ 7 := by unfold pushedCount; omega
  refine ⟨?_, keepBits_bitCnt_toNat _ h7 s⟩
  rw [keepBits_bitBuf_toNat _ h7, pushedCount, Nat.mod_eq_of_lt (pushedBits_lt hbuf v), pushedBits_eq]

/-- Settles O13: the paths of B32_PUSH are those of `exec_b32Push_cases` and `pushValue_cases`; the invariant bounds the
buffer, so the byte completed and the bits kept are a quotient and a remainder of it. -/
theorem pushDecodesOneCharacter : Obligations.PushDecodesOneCharacter := by
  intro c s legal wf
  refine ⟨toNat_encode_b32Push c, fun h => exec_b32Push_poisoned h c, fun h hc => exec_b32Push_invalid h hc,
    fun h v hv => ⟨fun many full => ?_, fun few => ?_, fun many room => ?_⟩⟩
  · exact (exec_b32Push_some h hv).trans (pushValue_overflow v many full)
  · obtain ⟨hbuf, hcnt⟩ := keepBits_pushed_few few legal.bitBuf_lt v
    exact ⟨_, (exec_b32Push_some h hv).trans (pushValue_keep v few), hbuf, hcnt, rfl⟩
  · have hcnt : pushedCount s - 8 = s.bitCnt.toNat - 3 := by unfold pushedCount; omega
    have h7 : s.bitCnt.toNat - 3 ≤ 7 := by have := legal.bitCnt_le; omega
    have hlt : pushedBits s v < 2 ^ (s.bitCnt.toNat - 3 + 8) := by
      rw [show s.bitCnt.toNat - 3 + 8 = s.bitCnt.toNat + 5 by omega]
      exact pushedBits_lt legal.bitBuf_lt v
    have hlen := (toNat_keyLen_succ legal wf room).1
    have hx := (exec_b32Push_some h hv).trans (pushValue_append v many room)
    rw [hcnt] at hx
    have left := keepBits_bitCnt_toNat (pushedBits s v) h7
    refine ⟨_, hx, left s, ?_, hlen, fun a => ?_, rfl⟩
    · rw [complete_bitBuf, complete_bitCnt, left, keepBits_bitBuf_toNat _ h7, pushedBits_eq]
    · rw [complete_key, complete_bitCnt, left, keepBits_key, appendKeyByte_key,
        Memory.read_write legal.key_canonical, apply_ite BitVec.toNat, completedByte_toNat_of_lt hlt, pushedBits_eq]

end Sys2Proof.Machine
end

section
/-! Pushing a whole secret follows the source's decode of it, until a character is rejected or a byte does not fit
(41_base32.md R104, R107, R110 to R112). -/

namespace Sys2Proof.Machine

/-- The decoder unit in the middle of a secret of which the source has decoded `out`, with `cnt` bits of its unmasked
buffer `buf` held (41_base32.md R111). -/
structure Decoding (buf cnt : Nat) (out : List Byte) (s : State) : Prop where
  config_wf : s.config.wf
  valid : s.status.keyInvalid = false
  bitCnt : s.bitCnt.toNat = cnt
  cnt_le : cnt ≤ 7
  bitBuf : s.bitBuf.toNat = buf % 2 ^ cnt
  keyLen : s.keyLen.toNat = out.length
  fits : out.length ≤ s.config.keyMaxBytes
  canonical : Memory.wf s.key
  keyBytes : keyBytes s = out

/-- The key after a rejected secret (41_base32.md R107). -/
structure Poisoned (s : State) : Prop where
  keyInvalid : s.status.keyInvalid = true
  keyLen : s.keyLen = 0

theorem KeyIsClear.decoding {s : State} (h : KeyIsClear s) (wf : s.config.wf) : Decoding 0 0 [] s where
  config_wf := wf
  valid := h.keyInvalid
  bitCnt := by rw [h.bitCnt]; rfl
  cnt_le := Nat.zero_le _
  bitBuf := by rw [h.bitBuf]; rfl
  keyLen := by rw [h.keyLen]; rfl
  fits := Nat.zero_le _
  canonical := by rw [h.key]; exact Memory.wf_zeroed
  keyBytes := by rw [keyBytes, h.keyLen]; rfl

/-! ### One character -/

/-- The source's buffer after one more character, as `sourceDecodeFrom` shifts it in. -/
def shiftIn (buf : Nat) (v : BitVec 5) : Nat := buf <<< 5 ||| v.toNat

theorem shiftIn_eq (buf : Nat) (v : BitVec 5) : shiftIn buf v = buf * 2 ^ 5 + v.toNat := by
  rw [shiftIn, Nat.shiftLeft_eq, Nat.mul_comm, Nat.two_pow_add_eq_or_of_lt v.isLt]

section OneCharacter

variable {buf cnt : Nat} {out : List Byte} {s : State} (h : Decoding buf cnt out s) (v : BitVec 5)
include h

/-- The unit's buffer is the low part of the source's, before and after five more bits (41_base32.md R111). -/
theorem Decoding.pushedBits_eq : pushedBits s v = shiftIn buf v % 2 ^ (cnt + 5) := by
  have := v.isLt
  have hlow : (buf * 2 ^ 5 + v.toNat) % 2 ^ 5 = v.toNat := by omega
  have hhigh : (buf * 2 ^ 5 + v.toNat) / 2 ^ 5 = buf := by omega
  rw [Machine.pushedBits_eq, shiftIn_eq, h.bitBuf, Nat.add_comm cnt 5, Nat.pow_add, Nat.mod_mul, hlow, hhigh]
  ring

theorem Decoding.pushedCount_eq : pushedCount s = cnt + 5 := congrArg (· + 5) h.bitCnt

theorem Decoding.keep (few : cnt ≤ 2) :
    Decoding (shiftIn buf v) (cnt + 5) out (keepBits (pushedBits s v) (pushedCount s) s) :=
  { h with
    bitCnt := by rw [h.pushedCount_eq, keepBits_bitCnt_toNat _ (by omega)]
    cnt_le := by omega
    bitBuf := by rw [h.pushedCount_eq, h.pushedBits_eq, keepBits_bitBuf_toNat _ (by omega), Nat.mod_mod] }

theorem Decoding.append (many : 3 ≤ cnt) (room : out.length ≠ s.config.keyMaxBytes) :
    Decoding (shiftIn buf v) (cnt - 3) (out ++ [completedByte (shiftIn buf v) (cnt - 3)])
      (keepBits (pushedBits s v) (pushedCount s - 8)
        (appendKeyByte (completedByte (pushedBits s v) (pushedCount s - 8)) s)) := by
  have hcap := h.config_wf.2
  have hfits := h.fits
  have hle := h.cnt_le
  have hlen : s.keyLen.toNat < 65535 := by rw [h.keyLen]; omega
  have hcnt : pushedCount s - 8 = cnt - 3 := by rw [h.pushedCount_eq]; omega
  have hbits : pushedBits s v = shiftIn buf v % 2 ^ (cnt - 3 + 8) := by
    rw [h.pushedBits_eq, show cnt - 3 + 8 = cnt + 5 by omega]
  rw [hcnt, hbits, completedByte_mod]
  exact
    { h with
      bitCnt := keepBits_bitCnt_toNat _ (by omega) _
      cnt_le := by omega
      bitBuf := by
        rw [keepBits_bitBuf_toNat _ (by omega)]
        exact Nat.mod_mod_of_dvd _ (Nat.pow_dvd_pow 2 (by omega))
      keyLen := by rw [keepBits_keyLen, appendKeyByte_keyLen_toNat _ hlen, h.keyLen, List.length_append]; rfl
      fits := by
        rw [List.length_append, List.length_singleton]
        exact Nat.lt_of_le_of_ne hfits room
      canonical := Memory.wf_write h.canonical _ _
      keyBytes := (keyBytes_appendKeyByte h.canonical hlen _).trans (by rw [h.keyBytes]) }

end OneCharacter

theorem Decoding.complete {buf cnt : Nat} {out : List Byte} {s : State} (h : Decoding buf cnt out s) (e : ErrCode) :
    Decoding buf cnt out (complete e s) := { h with }

/-- What a push of an accepted character does in the middle of a secret, with its outcome. -/
inductive Pushed (buf cnt : Nat) (out : List Byte) (v : BitVec 5) (s t : State) : Prop
  | kept (few : cnt ≤ 2) (decoding : Decoding (shiftIn buf v) (cnt + 5) out t) (code : t.status.errCode = 0)
  | stored (many : 3 ≤ cnt)
      (decoding : Decoding (shiftIn buf v) (cnt - 3) (out ++ [completedByte (shiftIn buf v) (cnt - 3)]) t)
      (code : t.status.errCode = 0)
  | overflowed (many : 3 ≤ cnt) (full : out.length = s.config.keyMaxBytes) (poisoned : Poisoned t)
      (code : t.status.errCode = 4)

theorem Decoding.push {buf cnt : Nat} {out : List Byte} {s : State} (h : Decoding buf cnt out s) {c : Byte}
    {v : BitVec 5} (hv : b32val c = some v) :
    ∃ t, exec (.b32Push c) s = .next t ∧ t.config = s.config ∧ Pushed buf cnt out v s t := by
  have hx := exec_b32Push_some h.valid hv
  rcases pushValue_cases v s with ⟨few, ht⟩ | ⟨many, full, ht⟩ | ⟨many, room, ht⟩
  · rw [h.bitCnt] at few
    exact ⟨_, hx.trans ht, rfl, .kept few ((h.keep v few).complete .ok) rfl⟩
  · rw [h.bitCnt] at many
    rw [h.keyLen] at full
    exact ⟨_, hx.trans ht, rfl, .overflowed many full ⟨rfl, rfl⟩ rfl⟩
  · rw [h.bitCnt] at many
    rw [h.keyLen] at room
    exact ⟨_, hx.trans ht, rfl, .stored many ((h.append v many room).complete .ok) rfl⟩

/-! ### The source's decoder, one character at a time -/

theorem sourceDecodeFrom_rejected {c : Byte} (hc : b32val c = none) (buf cnt : Nat) (cs : List Byte) :
    sourceDecodeFrom buf cnt (c :: cs) = none := by
  simp only [sourceDecodeFrom, hc]

theorem sourceDecodeFrom_kept {c : Byte} {v : BitVec 5} (hv : b32val c = some v) (buf : Nat) {cnt : Nat} (few : cnt ≤ 2)
    (cs : List Byte) : sourceDecodeFrom buf cnt (c :: cs) = sourceDecodeFrom (shiftIn buf v) (cnt + 5) cs := by
  simp only [sourceDecodeFrom, hv, if_neg (show ¬ 8 ≤ cnt + 5 by omega)]
  rfl

theorem sourceDecodeFrom_completed {c : Byte} {v : BitVec 5} (hv : b32val c = some v) (buf : Nat) {cnt : Nat}
    (many : 3 ≤ cnt) (cs : List Byte) :
    sourceDecodeFrom buf cnt (c :: cs) =
      (sourceDecodeFrom (shiftIn buf v) (cnt - 3) cs).map (completedByte (shiftIn buf v) (cnt - 3) :: ·) := by
  simp only [sourceDecodeFrom, hv, if_pos (show 8 ≤ cnt + 5 by omega), Nat.add_sub_add_right cnt 5 3]
  rfl

/-- The source decodes every secret of accepted characters. -/
theorem exists_sourceDecodeFrom {cs : List Byte} (h : ∀ c ∈ cs, b32val c ≠ none) (buf : Nat) {cnt : Nat}
    (hcnt : cnt ≤ 7) : ∃ bytes, sourceDecodeFrom buf cnt cs = some bytes := by
  induction cs generalizing buf cnt with
  | nil => exact ⟨[], rfl⟩
  | cons c cs ih =>
    obtain ⟨hc, hcs⟩ := List.forall_mem_cons.1 h
    obtain ⟨v, hv⟩ := Option.ne_none_iff_exists'.1 hc
    by_cases few : cnt ≤ 2
    · rw [sourceDecodeFrom_kept hv buf few]
      exact ih hcs _ (by omega)
    · rw [sourceDecodeFrom_completed hv buf (by omega)]
      obtain ⟨bytes, hb⟩ := ih hcs (shiftIn buf v) (cnt := cnt - 3) (by omega)
      exact ⟨_, congrArg _ hb⟩

/-- It completes a byte for every eight bits. -/
theorem length_of_sourceDecodeFrom {cs bytes : List Byte} {buf cnt : Nat} (hcnt : cnt ≤ 7)
    (h : sourceDecodeFrom buf cnt cs = some bytes) : bytes.length = (cnt + 5 * cs.length) / 8 := by
  induction cs generalizing buf cnt bytes with
  | nil =>
    cases h
    simp only [List.length_nil]
    omega
  | cons c cs ih =>
    cases hv : b32val c with
    | none => exact nomatch (sourceDecodeFrom_rejected hv buf cnt cs).symm.trans h
    | some v =>
      by_cases few : cnt ≤ 2
      · rw [sourceDecodeFrom_kept hv buf few] at h
        rw [ih (by omega) h, List.length_cons]
        omega
      · rw [sourceDecodeFrom_completed hv buf (by omega)] at h
        obtain ⟨rest, hrest, rfl⟩ := Option.map_eq_some_iff.1 h
        rw [List.length_cons, ih (by omega) hrest, List.length_cons]
        omega

/-! ### A whole secret -/

theorem execAll_cons {i : Instr} {s t : State} (h : exec i s = .next t) (is : List Instr) :
    execAll (i :: is) s = execAll is t := by
  simp only [execAll, h]

theorem execAll_append {is : List Instr} {s t : State} (h : execAll is s = .next t) (js : List Instr) :
    execAll (is ++ js) s = execAll js t := by
  induction is generalizing s with
  | nil => cases h; rfl
  | cons i is ih =>
    obtain ⟨e, u, hx, -⟩ := exec_completes i s
    rw [execAll_cons hx] at h
    rw [List.cons_append, execAll_cons hx, ih h]

theorem pushes_append (cs ds : List Byte) : pushes (cs ++ ds) = pushes cs ++ pushes ds := List.map_append

/-- Pushes on a poisoned key change nothing of it (41_base32.md R106). -/
theorem Poisoned.execAll_pushes {s : State} (h : Poisoned s) (cs : List Byte) :
    ∃ t, execAll (pushes cs) s = .next t ∧ t.config = s.config ∧ Poisoned t := by
  induction cs generalizing s with
  | nil => exact ⟨s, rfl, rfl, h⟩
  | cons c cs ih =>
    obtain ⟨t, ht, hconfig, hp⟩ := ih (s := Machine.complete .keyPoisoned s) ⟨h.keyInvalid, h.keyLen⟩
    exact ⟨t, (execAll_cons (exec_b32Push_poisoned h.keyInvalid c) _).trans ht, hconfig, hp⟩

/-- The end of the pushes of a secret: the source's decode of it, or a poisoned key where the source fails or decodes
to more bytes than fit. -/
inductive SecretPushed (buf cnt : Nat) (out cs : List Byte) (s t : State) : Prop
  | decoded {bytes : List Byte} {buf' : Nat} (source : sourceDecodeFrom buf cnt cs = some bytes)
      (decoding : Decoding buf' ((cnt + 5 * cs.length) % 8) (out ++ bytes) t)
  | poisoned (poisoned : Poisoned t)
      (noRoom : ∀ bytes, sourceDecodeFrom buf cnt cs = some bytes → s.config.keyMaxBytes < out.length + bytes.length)

section FirstCharacter

variable {buf cnt : Nat} {out cs : List Byte} {c : Byte} {v : BitVec 5} {s u t : State}

/-- The end of a secret whose first character completes no byte is that of the rest. -/
theorem SecretPushed.of_kept (hv : b32val c = some v) (few : cnt ≤ 2) (hconfig : u.config = s.config)
    (all : SecretPushed (shiftIn buf v) (cnt + 5) out cs u t) : SecretPushed buf cnt out (c :: cs) s t := by
  have hsource := sourceDecodeFrom_kept hv buf few cs
  cases all with
  | decoded source decoding =>
    rw [show cnt + 5 + 5 * cs.length = cnt + 5 * (c :: cs).length by rw [List.length_cons]; omega] at decoding
    exact .decoded (hsource.trans source) decoding
  | poisoned hp noRoom =>
    rw [← hsource, hconfig] at noRoom
    exact .poisoned hp noRoom

/-- The end of a secret whose first character completes a byte is that of the rest, after that byte. -/
theorem SecretPushed.of_stored (hv : b32val c = some v) (many : 3 ≤ cnt) (hconfig : u.config = s.config)
    (all : SecretPushed (shiftIn buf v) (cnt - 3) (out ++ [completedByte (shiftIn buf v) (cnt - 3)]) cs u t) :
    SecretPushed buf cnt out (c :: cs) s t := by
  have hsource := sourceDecodeFrom_completed hv buf many cs
  cases all with
  | decoded source decoding =>
    have hcnt : (cnt - 3 + 5 * cs.length) % 8 = (cnt + 5 * (c :: cs).length) % 8 := by rw [List.length_cons]; omega
    rw [List.append_assoc, hcnt] at decoding
    exact .decoded (hsource.trans (congrArg _ source)) decoding
  | poisoned hp noRoom =>
    refine .poisoned hp fun bytes hb => ?_
    obtain ⟨rest, hrest, rfl⟩ := Option.map_eq_some_iff.1 (hsource.symm.trans hb)
    have := noRoom rest hrest
    rw [hconfig, List.length_append, List.length_singleton] at this
    rw [List.length_cons]
    omega

/-- A secret whose first character overflows decodes to one more byte than fits. -/
theorem SecretPushed.of_overflowed (hv : b32val c = some v) (many : 3 ≤ cnt) (full : out.length = s.config.keyMaxBytes)
    (hp : Poisoned t) : SecretPushed buf cnt out (c :: cs) s t := by
  refine .poisoned hp fun bytes hb => ?_
  obtain ⟨rest, -, rfl⟩ := Option.map_eq_some_iff.1 ((sourceDecodeFrom_completed hv buf many cs).symm.trans hb)
  rw [List.length_cons]
  omega

end FirstCharacter

/-- By induction on the characters: each goes on with the rest of the secret, or poisons the key for the rest of it. -/
theorem Decoding.execAll_pushes {buf cnt : Nat} {out : List Byte} {s : State} (h : Decoding buf cnt out s)
    (cs : List Byte) :
    ∃ t, execAll (pushes cs) s = .next t ∧ t.config = s.config ∧ SecretPushed buf cnt out cs s t := by
  induction cs generalizing s buf cnt out with
  | nil =>
    have := h.cnt_le
    refine ⟨s, rfl, rfl, .decoded (bytes := []) (buf' := buf) rfl ?_⟩
    rw [List.append_nil, List.length_nil, Nat.mul_zero, Nat.add_zero, Nat.mod_eq_of_lt (by omega)]
    exact h
  | cons c cs ih =>
    cases hv : b32val c with
    | none =>
      have hp : Poisoned (Machine.complete .invalidInput (zeroKey true s)) := ⟨rfl, rfl⟩
      obtain ⟨t, ht, hconfig, hp⟩ := hp.execAll_pushes cs
      refine ⟨t, (execAll_cons (exec_b32Push_invalid h.valid hv) _).trans ht, hconfig, .poisoned hp fun bytes hb => ?_⟩
      exact nomatch (sourceDecodeFrom_rejected hv buf cnt cs).symm.trans hb
    | some v =>
      obtain ⟨u, hu, hconfig, pushed⟩ := h.push hv
      cases pushed with
      | kept few decoding =>
        obtain ⟨t, ht, hconfig', all⟩ := ih decoding
        exact ⟨t, (execAll_cons hu _).trans ht, hconfig'.trans hconfig, all.of_kept hv few hconfig⟩
      | stored many decoding =>
        obtain ⟨t, ht, hconfig', all⟩ := ih decoding
        exact ⟨t, (execAll_cons hu _).trans ht, hconfig'.trans hconfig, all.of_stored hv many hconfig⟩
      | overflowed many full hp =>
        obtain ⟨t, ht, hconfig', hp'⟩ := hp.execAll_pushes cs
        exact ⟨t, (execAll_cons hu _).trans ht, hconfig'.trans hconfig, .of_overflowed hv many full hp'⟩

/-- Settles O14: from a clear key the pushes end in the source's decode, unless that fails or does not fit. -/
theorem pushedSecretIsTheSourcesDecode : Obligations.PushedSecretIsTheSourcesDecode := by
  intro secret s wf clear
  obtain ⟨t, ht, -, all⟩ := (clear.decoding wf).execAll_pushes secret
  refine ⟨fun bytes source fits => ⟨t, ht, ?_⟩, fun fails => ⟨t, ht, ?_⟩⟩
  · have hlen := length_of_sourceDecodeFrom (Nat.zero_le 7) source
    rw [Nat.zero_add] at hlen
    cases all with
    | decoded source' decoding =>
      cases source'.symm.trans source
      rw [Nat.zero_add, List.nil_append] at decoding
      exact ⟨decoding.keyBytes, decoding.keyLen.trans hlen, decoding.bitCnt, decoding.valid⟩
    | poisoned _ noRoom =>
      have := noRoom bytes source
      rw [List.length_nil, Nat.zero_add, hlen] at this
      omega
  · cases all with
    | decoded source => exact nomatch fails.symm.trans source
    | poisoned hp => exact ⟨hp.keyInvalid, hp.keyLen⟩

/-- ERRCODE after the last of some pushes of accepted characters tells whether that one overflowed (41_base32.md
R112). -/
theorem errCode_eq_overflow_iff {secret : List Byte} {c : Byte} {s t : State} (wf : s.config.wf) (clear : KeyIsClear s)
    (accepted : ∀ c' ∈ secret ++ [c], b32val c' ≠ none) (h : execAll (pushes (secret ++ [c])) s = .next t) :
    t.status.errCode = 4 ↔
      5 * (secret.length + 1) / 8 = s.config.keyMaxBytes + 1 ∧ 5 * secret.length / 8 = s.config.keyMaxBytes := by
  obtain ⟨v, hv⟩ := Option.ne_none_iff_exists'.1 (accepted c (by simp))
  obtain ⟨bytes, source⟩ :=
    exists_sourceDecodeFrom (fun c' hc => accepted c' (List.mem_append_left _ hc)) 0 (Nat.zero_le 7)
  have hlen := length_of_sourceDecodeFrom (Nat.zero_le 7) source
  obtain ⟨u, hu, hconfig, all⟩ := (clear.decoding wf).execAll_pushes secret
  rw [pushes_append, execAll_append hu] at h
  cases all with
  | decoded source' decoding =>
    cases source'.symm.trans source
    have hfits := decoding.fits
    obtain ⟨t', ht', hconfig', pushed⟩ := decoding.push hv
    cases (execAll_cons ht' []).symm.trans h
    rw [List.nil_append, hconfig] at hfits
    cases pushed with
    | kept few _ code =>
      rw [code]
      exact iff_of_false (by decide) (by omega)
    | stored many decoding' code =>
      have := decoding'.fits
      rw [hconfig', hconfig, List.nil_append, List.length_append, List.length_singleton] at this
      rw [code]
      exact iff_of_false (by decide) (by omega)
    | overflowed many full _ code =>
      rw [hconfig, List.nil_append] at full
      exact iff_of_true code (by omega)
  | poisoned hp noRoom =>
    cases (execAll_cons (exec_b32Push_poisoned hp.keyInvalid c) []).symm.trans h
    have := noRoom bytes source
    rw [List.length_nil] at this
    exact iff_of_false (by decide : (3 : BitVec 4) ≠ 4) (by omega)

/-- Settles O15: an accepted secret has a decode, so the key is poisoned exactly when that does not fit; the outcome of
the last push is that of its own byte. -/
theorem secretOverflowsBeyondTheCapacity : Obligations.SecretOverflowsBeyondTheCapacity := by
  intro secret s wf clear accepted
  obtain ⟨bytes, source⟩ := exists_sourceDecodeFrom accepted 0 (Nat.zero_le 7)
  have hlen := length_of_sourceDecodeFrom (Nat.zero_le 7) source
  rw [Nat.zero_add] at hlen
  obtain ⟨t, ht, hconfig, all⟩ := (clear.decoding wf).execAll_pushes secret
  have hinvalid : t.status.keyInvalid = true ↔ s.config.keyMaxBytes < 5 * secret.length / 8 := by
    cases all with
    | decoded source' decoding =>
      cases source'.symm.trans source
      have := decoding.fits
      rw [List.nil_append, hconfig, hlen] at this
      simp [decoding.valid, this]
    | poisoned hp noRoom =>
      have := noRoom bytes source
      rw [List.length_nil, Nat.zero_add, hlen] at this
      exact iff_of_true hp.keyInvalid this
  refine ⟨t, ht, hinvalid, ?_, fun nonempty => ?_⟩
  · rw [← Bool.not_eq_true, hinvalid]
    omega
  · obtain ⟨init, c, rfl⟩ := (List.eq_nil_or_concat' secret).resolve_left nonempty
    rw [List.length_append, List.length_singleton, Nat.add_sub_cancel]
    exact errCode_eq_overflow_iff wf clear accepted ht

end Sys2Proof.Machine
end

section
/-! The source's decoder undoes the RFC 4648 encoder (41_base32.md R113): both are read as cutting one big-endian number
into fives and into eights. -/

namespace Sys2Proof.Machine

/-! ### The characters of a number -/

theorem b32val_alphabetChar : ∀ v < 32, (b32val (alphabetChar v)).map BitVec.toNat = some v := by decide

/-- The characters of the last `5 * m` bits of `N`. -/
def charsOf (N m : Nat) : List Byte :=
  (List.range m).map fun k => alphabetChar (N >>> (5 * (m - 1 - k)) &&& 31)

/-- The first character of the last bits, and the others. -/
theorem charsOf_succ (N m : Nat) : charsOf N (m + 1) = alphabetChar (N >>> (5 * m) &&& 31) :: charsOf N m := by
  rw [charsOf, List.range_succ_eq_map, List.map_cons, List.map_map, charsOf]
  refine congrArg₂ _ rfl (List.map_congr_left fun k _ => ?_)
  rw [Function.comp_apply, show m + 1 - 1 - k.succ = m - 1 - k by omega]

/-- Shifting a number's next five bits in. -/
theorem shiftIn_next (N m : Nat) {v : BitVec 5} (hv : v.toNat = N >>> (5 * m) &&& 31) :
    shiftIn (N >>> (5 * (m + 1))) v = N >>> (5 * m) := by
  have h31 : ∀ x : Nat, x &&& 31 = x % 2 ^ 5 := fun x => Nat.and_two_pow_sub_one_eq_mod x 5
  rw [shiftIn_eq, hv, h31, Nat.mul_add_one, Nat.shiftRight_add, Nat.shiftRight_eq_div_pow _ 5]
  exact Nat.div_add_mod' _ _

/-! ### The bytes of a number -/

/-- The `q` bytes of `N` above its last `r` bits. -/
def bytesAbove (N r : Nat) : Nat → List Byte
  | 0 => []
  | q + 1 => completedByte N (8 * q + r) :: bytesAbove N r q

/-- A byte completed from a number without its last bits is one of the number. -/
theorem completedByte_shiftRight (N a cnt : Nat) : completedByte (N >>> a) cnt = completedByte N (a + cnt) := by
  rw [completedByte, completedByte, Nat.shiftRight_add]

/-- The source's decode of the last characters of a number, with the bits before them in the buffer. -/
theorem sourceDecodeFrom_charsOf {N m cnt q r : Nat} (hcnt : cnt ≤ 7) (hr : r < 8) (hbits : cnt + 5 * m = 8 * q + r) :
    sourceDecodeFrom (N >>> (5 * m)) cnt (charsOf N m) = some (bytesAbove N r q) := by
  induction m generalizing cnt q with
  | zero =>
    obtain rfl : q = 0 := by omega
    rfl
  | succ m ih =>
    have hlt : N >>> (5 * m) &&& 31 < 32 := Nat.lt_succ_of_le Nat.and_le_right
    obtain ⟨v, hv, hvalue⟩ := Option.map_eq_some_iff.1 (b32val_alphabetChar _ hlt)
    rw [charsOf_succ]
    by_cases few : cnt ≤ 2
    · rw [sourceDecodeFrom_kept hv _ few, shiftIn_next N m hvalue]
      exact ih (by omega) (by omega)
    · obtain ⟨q, rfl⟩ : ∃ p, q = p + 1 := ⟨q - 1, by omega⟩
      rw [sourceDecodeFrom_completed hv _ (by omega), shiftIn_next N m hvalue, ih (q := q) (by omega) (by omega),
        completedByte_shiftRight, show 5 * m + (cnt - 3) = 8 * q + r by omega]
      rfl

/-! ### The number of some bytes -/

/-- The big-endian number of `b` after the digits of `n`. -/
def bytesValueFrom (n : Nat) (b : List Byte) : Nat := b.foldl (fun n x => n * 256 + x.toNat) n

theorem bytesValue_eq (b : List Byte) : bytesValue b = bytesValueFrom 0 b := rfl

theorem bytesValueFrom_cons (n : Nat) (x : Byte) (b : List Byte) :
    bytesValueFrom n (x :: b) = bytesValueFrom (n * 256 + x.toNat) b := rfl

/-- Without the bytes the digits before them are left. -/
theorem bytesValueFrom_shiftRight (n : Nat) (b : List Byte) : bytesValueFrom n b >>> (8 * b.length) = n := by
  induction b generalizing n with
  | nil => rfl
  | cons x b ih =>
    rw [bytesValueFrom_cons, List.length_cons, Nat.mul_add_one 8, Nat.shiftRight_add, ih, Nat.shiftRight_eq_div_pow]
    omega

/-- A number of bytes has those bytes, also with `r` zero bits put after them. -/
theorem bytesAbove_bytesValueFrom (n r : Nat) (b : List Byte) :
    bytesAbove (bytesValueFrom n b <<< r) r b.length = b := by
  induction b generalizing n with
  | nil => rfl
  | cons x b ih =>
    have head : completedByte (bytesValueFrom (n * 256 + x.toNat) b <<< r) (8 * b.length + r) = x := by
      apply BitVec.eq_of_toNat_eq
      rw [Nat.add_comm _ r, ← completedByte_shiftRight, Nat.shiftLeft_shiftRight, completedByte_toNat,
        ← Nat.shiftRight_eq_div_pow, bytesValueFrom_shiftRight]
      omega
    rw [bytesValueFrom_cons, List.length_cons, bytesAbove, head, ih]

/-! ### Decoding the encoding -/

theorem base32Encode_eq_charsOf (b : List Byte) :
    base32Encode b =
      charsOf (bytesValue b <<< (5 * encodedLength b.length - 8 * b.length)) (encodedLength b.length) := rfl

theorem length_base32Encode (b : List Byte) : (base32Encode b).length = encodedLength b.length := by
  rw [base32Encode_eq_charsOf, charsOf, List.length_map, List.length_range]

/-- The source decodes an encoding to the encoded bytes. -/
theorem sourceDecode_base32Encode (b : List Byte) : sourceDecode (base32Encode b) = some b := by
  obtain ⟨r, hr, hn⟩ : ∃ r < 8, 5 * encodedLength b.length = 8 * b.length + r :=
    ⟨5 * encodedLength b.length - 8 * b.length, by unfold encodedLength; omega, by unfold encodedLength; omega⟩
  have hnone : (bytesValueFrom 0 b <<< r) >>> (5 * encodedLength b.length) = 0 := by
    rw [hn, Nat.add_comm, Nat.shiftRight_add, Nat.shiftLeft_shiftRight, bytesValueFrom_shiftRight]
  have h := sourceDecodeFrom_charsOf (N := bytesValueFrom 0 b <<< r) (Nat.zero_le 7) hr ((Nat.zero_add _).trans hn)
  rw [hnone, bytesAbove_bytesValueFrom] at h
  rw [base32Encode_eq_charsOf, bytesValue_eq, hn, Nat.add_sub_cancel_left]
  exact h

/-- Settles O16: the pushes of the encoding end in the source's decode of it, which is the bytes encoded. -/
theorem encodedBytesAreDecodedBack : Obligations.EncodedBytesAreDecodedBack := by
  intro b s wf clear fits
  have hlen : 5 * (base32Encode b).length / 8 = b.length := by
    rw [length_base32Encode, encodedLength]
    omega
  obtain ⟨decodes, -⟩ := pushedSecretIsTheSourcesDecode (base32Encode b) s wf clear
  obtain ⟨t, ht, hbytes, -, hcnt, hvalid⟩ := decodes b (sourceDecode_base32Encode b) (by rwa [hlen])
  exact ⟨length_base32Encode b, t, ht, hbytes, hvalid, by rw [hcnt]; exact Nat.mod_lt _ (by decide)⟩

end Sys2Proof.Machine
end

section
/-! SHA-1's padded message (42_hmac_sha1.md R133), its blocks (R134), and the schedule of a block (R136). -/

namespace Sys2Proof.Machine

/-! ### The padding -/

theorem padZeros_fills (len : Nat) : (len + 1 + padZeros len) % 64 = 56 := by
  unfold padZeros
  omega

theorem padZeros_le {len z : Nat} (h : (len + 1 + z) % 64 = 56) : padZeros len ≤ z := by
  unfold padZeros
  omega

theorem length_pad (M : List Byte) : (pad M).length = M.length + 1 + padZeros M.length + 8 := by
  simp only [pad, List.length_append, List.length_singleton, List.length_replicate, length_be64]

theorem length_pad_mod (M : List Byte) : (pad M).length % 64 = 0 := by
  have := padZeros_fills M.length
  rw [length_pad]
  omega

/-- Settles O19: `padZeros` fills the last block up to the length field, and any number that does is no smaller. -/
theorem paddingFillsWholeBlocks : Obligations.PaddingFillsWholeBlocks := fun M =>
  ⟨rfl, padZeros_fills M.length, fun _ hz h => absurd (padZeros_le h) (Nat.not_le.mpr hz), length_pad_mod M⟩

/-! ### The schedule

The model holds the words of the schedule newest first; all facts about W_t go through `getD_extendSchedule`, which says
where W_t stands while the schedule is being extended. -/

/-- The last of `n + 1` words is computed from the list after `n` words. -/
theorem extendSchedule_succ (n : Nat) (ws : List Word) :
    extendSchedule (n + 1) ws = nextScheduleWord (extendSchedule n ws) :: extendSchedule n ws := by
  induction n generalizing ws with
  | zero => rfl
  | succ n ih => exact ih (nextScheduleWord ws :: ws)

theorem length_extendSchedule (n : Nat) (ws : List Word) : (extendSchedule n ws).length = n + ws.length := by
  induction n with
  | zero => exact (Nat.zero_add _).symm
  | succ n ih =>
    rw [extendSchedule_succ, List.length_cons, ih]
    omega

/-- Further words leave the words there are as they are. -/
theorem drop_extendSchedule (n k : Nat) (ws : List Word) :
    (extendSchedule (n + k) ws).drop k = extendSchedule n ws := by
  induction k with
  | zero => rfl
  | succ k ih => rw [← Nat.add_assoc, extendSchedule_succ, List.drop_succ_cons, ih]

theorem length_blockWords (B : List Byte) : (blockWords B).length = 16 := by
  rw [blockWords, List.length_map, List.length_reverse, List.length_range]

theorem length_schedule (B : List Byte) : (schedule B).length = 80 := by
  rw [schedule, List.length_reverse, length_extendSchedule, length_blockWords]

/-- After `n` words beyond the block's own, the word with `j` newer ones is W_(15 + n - j). -/
theorem getD_extendSchedule (B : List Byte) {n j : Nat} (hn : n ≤ 64) (hj : j < 16 + n) :
    (extendSchedule n (blockWords B)).getD j 0 = (schedule B).getD (15 + n - j) 0 := by
  have hlen : (extendSchedule 64 (blockWords B)).length = 80 := by rw [length_extendSchedule, length_blockWords]
  have hdrop := drop_extendSchedule n (64 - n) (blockWords B)
  rw [Nat.add_sub_cancel' hn] at hdrop
  rw [← hdrop, schedule, List.getD_eq_getElem?_getD, List.getD_eq_getElem?_getD, List.getElem?_drop,
    List.getElem?_reverse (by omega), hlen]
  congr 2
  omega

theorem getD_schedule_block (B : List Byte) {t : Nat} (ht : t < 16) : (schedule B).getD t 0 = be32 B (4 * t) := by
  have h := getD_extendSchedule B (n := 0) (j := 15 - t) (by omega) (by omega)
  rw [show 15 + 0 - (15 - t) = t by omega] at h
  rw [← h, extendSchedule, blockWords, List.getD_eq_getElem _ _ (by simp; omega), List.getElem_map,
    List.getElem_reverse, List.getElem_range, List.length_range]
  congr 2
  omega

theorem getD_schedule_next (B : List Byte) {n : Nat} (hn : n < 64) :
    (schedule B).getD (16 + n) 0 = nextScheduleWord (extendSchedule n (blockWords B)) := by
  have h := getD_extendSchedule B (n := n + 1) (j := 0) hn (by omega)
  rw [extendSchedule_succ, List.getD_cons_zero, show 15 + (n + 1) - 0 = 16 + n by omega] at h
  exact h.symm

/-- Settles O20: the words of the block stand first, and each later word is the next one after those before it. -/
theorem scheduleFollowsItsRecurrence : Obligations.ScheduleFollowsItsRecurrence := by
  refine fun B => ⟨length_schedule B, fun t ht => getD_schedule_block B ht, fun t h16 h80 => ?_⟩
  obtain ⟨n, rfl⟩ := Nat.exists_eq_add_of_le h16
  have hn : n < 64 := by omega
  have word : ∀ {j}, j < 16 → (extendSchedule n (blockWords B)).getD j 0 = (schedule B).getD (16 + n - (j + 1)) 0 :=
    fun hj => (getD_extendSchedule B hn.le (by omega)).trans (by congr 1; omega)
  rw [getD_schedule_next B hn, nextScheduleWord, word (by decide), word (by decide), word (by decide),
    word (by decide)]

/-! ### The blocks -/

theorem length_blocks (P : List Byte) : (blocks P).length = P.length / 64 := by
  rw [blocks, List.length_map, List.length_range]

theorem length_block {P : List Byte} {i : Nat} (h : i < P.length / 64) : (block P i).length = 64 := by
  rw [block, List.length_take, List.length_drop]
  omega

theorem length_of_mem_blocks {P B : List Byte} (h : B ∈ blocks P) : B.length = 64 := by
  obtain ⟨i, hi, rfl⟩ := List.mem_map.mp h
  exact length_block (List.mem_range.mp hi)

/-- The first `n` blocks are the first `64 * n` bytes. -/
theorem flatten_map_block (P : List Byte) (n : Nat) : ((List.range n).map (block P)).flatten = P.take (64 * n) := by
  induction n with
  | zero => rfl
  | succ n ih =>
    rw [List.range_succ, List.map_append, List.flatten_append, ih, List.map_singleton, List.flatten_singleton, block,
      ← List.take_add, Nat.mul_succ]

theorem flatten_blocks {P : List Byte} (h : P.length % 64 = 0) : (blocks P).flatten = P := by
  rw [blocks, flatten_map_block, Nat.mul_div_cancel' (Nat.dvd_of_mod_eq_zero h), List.take_length]

/-- Settles O57: a padded message is whole blocks, and a block's first sixteen schedule words are its BE32 words. -/
theorem blocksSplitThePaddedMessage : Obligations.BlocksSplitThePaddedMessage := by
  refine fun M => ⟨length_blocks (pad M), flatten_blocks (length_pad_mod M), fun B hB =>
    ⟨length_of_mem_blocks hB, fun t ht => ?_⟩⟩
  rw [getD_schedule_block B ht]
  exact toNat_be32 B (4 * t)

end Sys2Proof.Machine
end

section
/-! The rounds of SHA-1 (42_hmac_sha1.md R137 to R139), its digest (R140, R141), and HMAC-SHA1 over it (R131). -/

namespace Sys2Proof.Machine

/-! ### The rounds -/

theorem roundFunction_ch {t : Nat} (h : t ≤ 19) (x y z : Word) :
    roundFunction t x y z = (x &&& y) ^^^ (~~~x &&& z) :=
  if_pos (by omega)

theorem roundFunction_parity {t : Nat} (h : 20 ≤ t ∧ t ≤ 39 ∨ 60 ≤ t) (x y z : Word) :
    roundFunction t x y z = x ^^^ y ^^^ z := by
  rw [roundFunction, if_neg (by omega)]
  obtain ⟨-, h39⟩ | h60 := h
  · exact if_pos (by omega)
  · rw [if_neg (by omega), if_neg (by omega)]

theorem roundFunction_maj {t : Nat} (h40 : 40 ≤ t) (h59 : t ≤ 59) (x y z : Word) :
    roundFunction t x y z = (x &&& y) ^^^ (x &&& z) ^^^ (y &&& z) := by
  rw [roundFunction, if_neg (by omega), if_neg (by omega), if_pos (by omega)]

/-- K_t over the four ranges of t (42_hmac_sha1.md R138). -/
theorem roundConstant_ranges (t : Nat) :
    (t ≤ 19 → roundConstant t = 0x5A827999) ∧ (20 ≤ t → t ≤ 39 → roundConstant t = 0x6ED9EBA1) ∧
    (40 ≤ t → t ≤ 59 → roundConstant t = 0x8F1BBCDC) ∧ (60 ≤ t → t ≤ 79 → roundConstant t = 0xCA62C1D6) := by
  unfold roundConstant
  refine ⟨fun h19 => ?_, fun h20 h39 => ?_, fun h40 h59 => ?_, fun h60 _ => ?_⟩
  · exact if_pos (by omega)
  · rw [if_neg (by omega), if_pos (by omega)]
  · rw [if_neg (by omega), if_neg (by omega), if_pos (by omega)]
  · rw [if_neg (by omega), if_neg (by omega), if_neg (by omega)]

theorem sha1Rounds_append (t : Nat) (xs ys : List Word) (h : HashWords) :
    sha1Rounds t (xs ++ ys) h = sha1Rounds (t + xs.length) ys (sha1Rounds t xs h) := by
  induction xs generalizing t h with
  | nil => rfl
  | cons w xs ih =>
    rw [List.cons_append, sha1Rounds, ih, sha1Rounds, List.length_cons, Nat.add_right_comm, Nat.add_assoc]

/-- One more schedule word is one more round, with the round's own number. -/
theorem sha1Rounds_take_succ {ws : List Word} {t : Nat} (ht : t < ws.length) (h : HashWords) :
    sha1Rounds 0 (ws.take (t + 1)) h = sha1Round t (ws.getD t 0) (sha1Rounds 0 (ws.take t) h) := by
  rw [List.take_succ_eq_append_getElem ht, sha1Rounds_append, List.length_take_of_le ht.le, Nat.zero_add,
    List.getD_eq_getElem _ _ ht]
  rfl

/-- Settles O21: f_t and K_t range by range, and the working variables after one more round. -/
theorem roundsAdvanceTheWorkingVariables : Obligations.RoundsAdvanceTheWorkingVariables := by
  refine ⟨fun t x y z => ⟨fun h19 => ?_, fun h20 h39 => ?_, fun h40 h59 => ?_, fun h60 _ => ?_⟩,
    roundConstant_ranges, fun _ _ => rfl, fun ws h t ht => ?_⟩
  · exact roundFunction_ch h19 x y z
  · exact roundFunction_parity (.inl ⟨h20, h39⟩) x y z
  · exact roundFunction_maj h40 h59 x y z
  · exact roundFunction_parity (.inr h60) x y z
  · simp only [sha1Rounds_take_succ ht h, sha1Round, and_self]

/-! ### The digest -/

theorem length_digestBytes (h : HashWords) : (digestBytes h).length = 20 := rfl

theorem byteAt_digestBytes (h : HashWords) {j k : Nat} (hj : j < 5) (hk : k < 4) :
    byteAt (digestBytes h) (4 * j + k) = ([h.a, h.b, h.c, h.d, h.e].getD j 0).extractLsb' (24 - 8 * k) 8 := by
  interval_cases j <;> interval_cases k <;> rfl

theorem length_sha1 (M : List Byte) : (sha1 M).length = 20 := length_digestBytes _

/-- Settles O22: the digest is the bytes of the running hash after the last block. -/
theorem digestBytesAreBigEndianWords : Obligations.DigestBytesAreBigEndianWords := by
  refine ⟨⟨rfl, rfl, rfl, rfl, rfl⟩, fun _ _ => ⟨rfl, rfl, rfl, rfl, rfl⟩, fun M => ?_, ?_, fun _ _ => length_sha1 _⟩
  · exact ⟨rfl, fun _ _ hj hk => byteAt_digestBytes _ hj hk, length_sha1 M⟩
  · exact fun h _ _ hj hk => byteAt_digestBytes h hj hk

/-! ### HMAC-SHA1 -/

theorem hmacKeyBlock_of_long {K : List Byte} (h : 64 < K.length) :
    hmacKeyBlock K = sha1 K ++ List.replicate (64 - (sha1 K).length) 0x00 := by
  rw [hmacKeyBlock, if_pos h]

theorem hmacKeyBlock_of_short {K : List Byte} (h : K.length ≤ 64) :
    hmacKeyBlock K = K ++ List.replicate (64 - K.length) 0x00 := by
  rw [hmacKeyBlock, if_neg (Nat.not_lt.mpr h)]

theorem length_hmacKeyBlock (K : List Byte) : (hmacKeyBlock K).length = 64 := by
  obtain h | h := Nat.lt_or_ge 64 K.length
  · rw [hmacKeyBlock_of_long h, List.length_append, List.length_replicate, length_sha1]
  · rw [hmacKeyBlock_of_short h, List.length_append, List.length_replicate, Nat.add_sub_cancel' h]

/-- A long key has the key block of its digest, which is short. -/
theorem hmacKeyBlock_sha1 {K : List Byte} (h : 64 < K.length) : hmacKeyBlock (sha1 K) = hmacKeyBlock K := by
  rw [hmacKeyBlock_of_long h, hmacKeyBlock_of_short (by rw [length_sha1]; decide)]

theorem hmacKeyBlock_append_zeros {K : List Byte} {n : Nat} (h : K.length + n ≤ 64) :
    hmacKeyBlock (K ++ List.replicate n 0x00) = hmacKeyBlock K := by
  have hlen : (K ++ List.replicate n (0x00 : Byte)).length = K.length + n := by
    rw [List.length_append, List.length_replicate]
  rw [hmacKeyBlock_of_short (hlen.trans_le h), hmacKeyBlock_of_short (by omega), hlen, List.append_assoc,
    List.replicate_append_replicate]
  congr 2
  omega

/-- The key enters HMAC-SHA1 through its key block alone. -/
theorem hmacSha1_congr {K L : List Byte} (h : hmacKeyBlock K = hmacKeyBlock L) (m : List Byte) :
    hmacSha1 K m = hmacSha1 L m := by
  rw [hmacSha1, hmacSha1, h]

/-- Settles O23: keys of one key block give one HMAC-SHA1. -/
theorem hmacKeyIsHashedOrZeroFilled : Obligations.HmacKeyIsHashedOrZeroFilled := fun K m =>
  ⟨⟨length_hmacKeyBlock K, rfl⟩, fun long => hmacSha1_congr (hmacKeyBlock_sha1 long).symm m,
    fun _ fits => hmacSha1_congr (hmacKeyBlock_append_zeros fits) m⟩

end Sys2Proof.Machine
end

section
/-! The functions both generate commands share (43_generate.md R170 to R177): the arithmetic of TIME, the dynamic
truncation, and the code string. -/

namespace Sys2Proof.Machine

/-! ### Counter and remaining seconds -/

theorem timeCounter_toNat (t : DWord) : (timeCounter t).toNat = t.toNat / 30000 := by
  have := t.isLt
  rw [timeCounter, BitVec.toNat_ofNat]
  omega

theorem remainingSeconds_toNat (t : DWord) : (remainingSeconds t).toNat = 30 - t.toNat / 1000 % 30 := by
  rw [remainingSeconds, BitVec.toNat_ofNat]
  omega

/-- Settles O26: both values as numbers, and the rest is arithmetic of the time below 2^64. -/
theorem timeGivesCounterAndRemainingSeconds : Obligations.TimeGivesCounterAndRemainingSeconds := by
  intro t
  have := t.isLt
  rw [timeCounter_toNat, remainingSeconds_toNat]
  omega

/-! ### Dynamic truncation -/

/-- Masking with `k` low ones and keeping `k` bits is a remainder. -/
theorem toNat_setWidth_and_low_ones {n k : Nat} (x : BitVec n) {m : BitVec n} (hm : m.toNat = 2 ^ k - 1) :
    ((x &&& m).setWidth k).toNat = x.toNat % 2 ^ k := by
  rw [BitVec.toNat_setWidth, BitVec.toNat_and, hm, Nat.and_two_pow_sub_one_eq_mod, Nat.mod_mod]

theorem truncationOffset_toNat (hash : List Byte) : (truncationOffset hash).toNat = (byteAt hash 19).toNat % 16 :=
  toNat_setWidth_and_low_ones (byteAt hash 19) rfl

theorem truncatedValue_toNat (hash : List Byte) : (truncatedValue hash).toNat = (truncationRaw hash).toNat % 2 ^ 31 :=
  toNat_setWidth_and_low_ones (truncationRaw hash) rfl

theorem codeValue_lt (hash : List Byte) : codeValue hash < 1000000 := Nat.mod_lt _ (by decide)

/-- CODE is wide enough for the code. -/
theorem writeResults_code_toNat (hash : List Byte) (r : Results) :
    (writeResults hash r).code.toNat = codeValue hash :=
  Nat.mod_eq_of_lt ((codeValue_lt hash).trans (by decide))

/-- Settles O28: each mask is a remainder, and the word read at the offset is a base-256 number. -/
theorem truncationReadsFourBytesAtTheOffset : Obligations.TruncationReadsFourBytesAtTheOffset := by
  intro hash r
  have offset : (writeResults hash r).offset.toNat = (byteAt hash 19).toNat % 16 := truncationOffset_toNat hash
  exact ⟨offset, by omega, toNat_be32 hash _, truncatedValue_toNat hash, writeResults_code_toNat hash r, rfl⟩

/-! ### The code string -/

/-- The bytes of CODE_STR0 and CODE_STR1, most significant first (43_generate.md R177). -/
def codeStringBytes (cv : Nat) : List Byte := (List.range 6).map (codeDigit cv) ++ [0x00, 0x00]

theorem byteAt_codeStringBytes (cv : Nat) {k : Nat} (hk : k < 6) : byteAt (codeStringBytes cv) k = codeDigit cv k := by
  interval_cases k <;> rfl

theorem readReg_codeStr0 {s : State} {hash : List Byte} {r : Results} (h : s.results = writeResults hash r) :
    readReg s .codeStr0 = be32 (codeStringBytes (codeValue hash)) 0 := by
  rw [readReg, h]
  rfl

theorem readReg_codeStr1 {s : State} {hash : List Byte} {r : Results} (h : s.results = writeResults hash r) :
    readReg s .codeStr1 = be32 (codeStringBytes (codeValue hash)) 4 := by
  rw [readReg, h]
  exact (BitVec.append_assoc (x₁ := (writeResults hash r).codeStr1) (x₂ := 0#8) (x₃ := 0#8)).symm

/-- Byte `k` of a big-endian word is the sequence's byte `k` places on. -/
theorem extractLsb'_be32 (S : List Byte) (i : Nat) {k : Nat} (hk : k < 4) :
    (be32 S i).extractLsb' (24 - 8 * k) 8 = byteAt S (i + k) := by
  obtain ⟨h0, h1, h2, h3, -⟩ := by simpa only [wordBytes, List.cons.injEq] using wordBytes_be32 S i
  interval_cases k <;> assumption

theorem codeDigit_toNat (cv k : Nat) : (codeDigit cv k).toNat = 0x30 + cv / 10 ^ (5 - k) % 10 := by
  rw [codeDigit, BitVec.toNat_ofNat]
  omega

/-- Settles O29: the two registers are the words of the string's eight bytes, so their bytes are its digits. -/
theorem codeStringRendersTheCode : Obligations.CodeStringRendersTheCode := by
  intro hash s t d
  have code : t.results.code.toNat = codeValue hash := writeResults_code_toNat hash s.results
  have digit : ∀ k, k < 6 → d k = 0x30 + codeValue hash / 10 ^ (5 - k) % 10 := by
    intro k hk
    rw [← codeDigit_toNat, ← byteAt_codeStringBytes _ hk]
    by_cases h4 : k < 4
    · simp only [d, if_pos h4, readReg_codeStr0 (s := t) rfl, extractLsb'_be32 _ _ h4, Nat.zero_add]
    · simp only [d, if_neg h4, readReg_codeStr1 (s := t) rfl, extractLsb'_be32 _ _ (show k - 4 < 4 by omega)]
      rw [Nat.add_sub_of_le (Nat.le_of_not_lt h4)]
  have small := codeValue_lt hash
  refine ⟨fun k hk => by rw [digit k hk, code], fun k hk => ?_, ?_, ?_⟩
  · have := digit k hk
    omega
  · rw [digit 0 (by decide), digit 1 (by decide), digit 2 (by decide), digit 3 (by decide), digit 4 (by decide),
      digit 5 (by decide), code]
    omega
  · exact BitVec.extractLsb'_append_eq_right

end Sys2Proof.Machine
end

section
/-! The generate commands (43_generate.md R178, R179): each path with its frame, and what the results depend on
(R181, R182). -/

namespace Sys2Proof.Machine

/-! ### What a successful command leaves -/

theorem exec_totpGen_ready {s : State} (h : GenerateReady s) :
    exec .totpGen s = .next (generateDone (totpEffect s)) := generateChecked_ready totpEffect h

theorem exec_hotpGen_ready {s : State} (h : GenerateReady s) :
    exec .hotpGen s = .next (generateDone (hotpEffect s)) := generateChecked_ready hotpEffect h

theorem counter_generateDone (s : State) : counter (generateDone s) = counter s := rfl

theorem counter_totpDone (s : State) : counter (generateDone (totpEffect s)) = timeCounter (timeInput s) := by
  rw [counter_generateDone, totpEffect, counter_setCounter]

theorem results_totpDone (s : State) :
    (generateDone (totpEffect s)).results =
      (generateResults (timeCounter (timeInput s)) (remainingSeconds (timeInput s)) s).results := rfl

theorem counter_hotpDone (s : State) : counter (generateDone (hotpEffect s)) = counter s := rfl

theorem results_hotpDone (s : State) :
    (generateDone (hotpEffect s)).results = (generateResults (counter s) 0 s).results := rfl

/-! ### Each command path by path -/

/-- Settles O24: one state per outcome of the checks; the counter written reads back as TIME div 30000. -/
theorem totpGenComputesTheTimeCode : Obligations.TotpGenComputesTheTimeCode := by
  intro s
  refine ⟨rfl, fun poisoned => ?_, fun valid empty => ?_, fun valid nonempty => ?_⟩
  · exact generateChecked_poisoned totpEffect poisoned
  · exact generateChecked_empty totpEffect valid empty
  · have ctr := counter_totpDone s
    refine ⟨_, exec_totpGen_ready ⟨valid, nonempty⟩, ?_, remainingSeconds_toNat (timeInput s), ?_, rfl⟩
    · exact (congrArg BitVec.toNat ctr).trans (timeCounter_toNat (timeInput s))
    · rw [counter] at ctr
      rw [ctr]
      rfl

/-- Settles O25: one state per outcome of the checks. -/
theorem hotpGenComputesTheCounterCode : Obligations.HotpGenComputesTheCounterCode := by
  intro s
  refine ⟨rfl, fun poisoned => ?_, fun valid empty => ?_, fun valid nonempty => ?_⟩
  · exact generateChecked_poisoned hotpEffect poisoned
  · exact generateChecked_empty hotpEffect valid empty
  · exact exec_hotpGen_ready ⟨valid, nonempty⟩

/-! ### What the results depend on -/

/-- The results written for a counter depend on the key bytes alone: every other register of them is overwritten. -/
theorem generateResults_results_congr {s u : State} (hkey : keyBytes s = keyBytes u) (c : DWord) (r : BitVec 5) :
    (generateResults c r s).results = (generateResults c r u).results := by
  have digest : keyedDigest c s = keyedDigest c u := by rw [keyedDigest, hkey, keyedDigest]
  rw [generateResults_results, digest]
  rfl

/-- Settles O30: TOTP_GEN's counter is HOTP_GEN's, and the results for one counter depend on the key bytes alone. -/
theorem totpAgreesWithHotpOnItsCounter : Obligations.TotpAgreesWithHotpOnItsCounter := by
  intro s u hs hu hkey hctr
  have ctr : timeCounter (timeInput s) = counter u :=
    BitVec.eq_of_toNat_eq ((timeCounter_toNat _).trans hctr.symm)
  refine ⟨_, _, exec_totpGen_ready hs, exec_hotpGen_ready hu, ?_, ?_, counter_hotpDone u⟩
  · rw [results_totpDone, results_hotpDone, ctr, ← generateResults_results_congr hkey]
    rfl
  · rw [counter_totpDone, counter_hotpDone, ctr]

/-- Settles O31: each command writes the results for a counter that TIME, or CTR, gives. -/
theorem generatedResultsDependOnKeyAndTimeAlone : Obligations.GeneratedResultsDependOnKeyAndTimeAlone := by
  intro s u hs hu hkey
  refine ⟨fun time => ⟨_, _, exec_totpGen_ready hs, exec_totpGen_ready hu, ?_, ?_⟩,
    fun ctr => ⟨_, _, exec_hotpGen_ready hs, exec_hotpGen_ready hu, ?_, ctr⟩⟩
  · rw [results_totpDone, results_totpDone, time, generateResults_results_congr hkey]
  · rw [counter_totpDone, counter_totpDone, time]
  · rw [results_hotpDone, results_hotpDone, ctr, generateResults_results_congr hkey]

end Sys2Proof.Machine
end

section
/-! What a step of the ENGINE answers: the pending command, its one outcome, and the word placed by `withFetchWord`
(60_exceptions.md R201 to R204; log 10). -/

namespace Sys2Proof.Machine

theorem step_of_decode {i : Instr} {s : State} (run : EngineRuns s) (word : decode s.pending = .ok i) :
    step s = exec i (popTurn s) :=
  (step_engineRuns run).trans (execPending_ok (s := popTurn s) word)

/-- Settles O6: the ENGINE's step executes the pending word, and the word is the instruction. -/
theorem stepExecutesThePendingCommand : Obligations.StepExecutesThePendingCommand :=
  fun _ _ run _ word => step_of_decode run word

/-- The word placed by `withFetchWord` is pending, and the schedule, used up or not, gives the ENGINE the turn. -/
theorem engineRuns_withFetchWord (s : State) (nbits w : Nat) : EngineRuns (s.withFetchWord nbits w) where
  wasReset := rfl
  turn := by
    unfold nextAgent State.withFetchWord
    cases s.turns with
    | nil => rfl
    | cons a ts => rfl
  busy := rfl

theorem decode_of_decodeTableWord {nbits w : Nat} {i : Instr} (h : decodeTableWord nbits w = some i) :
    decode (BitVec.ofNat 32 (w % 2 ^ nbits)) = .ok i := by
  unfold decodeTableWord at h
  split at h
  · cases word : decode (BitVec.ofNat 32 (w % 2 ^ nbits)) with
    | ok j => rw [word] at h; exact congrArg _ (Option.some.inj h)
    | error e => rw [word] at h; cases h
  · cases h

/-- Settles O7: `withFetchWord` leaves the ENGINE to run, with the word read from the table pending. -/
theorem stepAfterFetchWordExecutesIt : Obligations.StepAfterFetchWordExecutesIt :=
  fun s nbits w _ h => step_of_decode (engineRuns_withFetchWord s nbits w) (decode_of_decodeTableWord h)

/-- The outcome of B32_PUSH (41_base32.md R106). -/
theorem errCode_of_b32Push {c : Byte} {s t : State} (h : exec (.b32Push c) s = .next t) :
    t.status.errCode =
      if s.status.keyInvalid = true then 3
      else if b32val c = none then 1
      else if 3 ≤ s.bitCnt.toNat ∧ s.keyLen.toNat = s.config.keyMaxBytes then 4
      else 0 := by
  rcases exec_b32Push_cases c s with ⟨invalid, hx⟩ | ⟨valid, value, hx⟩ | ⟨valid, v, value, hx⟩
  · cases hx.symm.trans h
    rw [if_pos invalid]
    rfl
  · cases hx.symm.trans h
    rw [if_neg (ne_true_of_eq_false valid), if_pos value]
    rfl
  · rw [if_neg (ne_true_of_eq_false valid), if_neg (Option.ne_none_iff_exists'.2 ⟨v, value⟩)]
    rcases pushValue_cases v s with ⟨few, hv⟩ | ⟨many, full, hv⟩ | ⟨many, room, hv⟩ <;> cases (hx.trans hv).symm.trans h
    · rw [if_neg fun overflow => by omega]
      rfl
    · rw [if_pos ⟨many, full⟩]
      rfl
    · rw [if_neg fun overflow => room overflow.2]
      rfl

/-- The outcome of a generate command (43_generate.md R178, R179). -/
theorem errCode_of_generateChecked {effect : State → State} {s t : State} (h : generateChecked effect s = .next t) :
    t.status.errCode = if s.status.keyInvalid = true then 3 else if s.keyLen = 0 then 2 else 0 := by
  rcases generateChecked_cases effect s with ⟨invalid, hx⟩ | ⟨valid, empty, hx⟩ | ⟨ready, hx⟩ <;> cases hx.symm.trans h
  · rw [if_pos invalid]
    rfl
  · rw [if_neg (ne_true_of_eq_false valid), if_pos empty]
    rfl
  · rw [if_neg (ne_true_of_eq_false ready.keyValid), if_neg ready.keyNonempty]
    rfl

theorem exists_execPending_next (s : State) : ∃ t, execPending s = .next t := by
  obtain ⟨e, u, h, -⟩ := execPending_completes s
  exact ⟨_, h⟩

/-- Settles O9: the step is the execution of the pending word, and its outcome is that of the command decoded. -/
theorem outcomeIsTheFirstCheckThatApplies : Obligations.OutcomeIsTheFirstCheckThatApplies := by
  intro s run
  obtain ⟨t, hx⟩ := exists_execPending_next (popTurn s)
  obtain ⟨busy, done⟩ := execPending_completed hx
  refine ⟨t, (step_engineRuns run).trans hx, busy, done, (execPending_frame hx).pending, ?_⟩
  cases word : decode s.pending with
  | error e =>
    cases (execPending_error (s := popTurn s) word).symm.trans hx
    exact (ite_self _).symm
  | ok i =>
    have isLegal : legal s.pending = true := (decode_isOk_iff_legal _).1 ⟨i, word⟩
    rw [if_neg (ne_false_of_eq_true isLegal)]
    rw [execPending_ok (s := popTurn s) word] at hx
    cases i with
    | keyClear => cases (exec_keyClear _).symm.trans hx; rfl
    | b32Push c => exact errCode_of_b32Push (s := popTurn s) hx
    | totpGen => exact errCode_of_generateChecked (s := popTurn s) (effect := totpEffect) hx
    | hotpGen => exact errCode_of_generateChecked (s := popTurn s) (effect := hotpEffect) hx

end Sys2Proof.Machine
end

section
/-! When a step is refused: an access that R62 does not admit, or anything but a reset before the first reset
(60_exceptions.md R220; 70_reset_and_hazards.md R233). -/

namespace Sys2Proof.Machine

theorem busOffset_before_reset {s : State} (h : s.wasReset = false) (addr size : Nat) :
    busOffset s addr size = .error .beforeFirstReset := by
  simp [busOffset, h]

theorem hostOp_before_reset {op : HostOp} {s : State} (h : s.wasReset = false) (notReset : op ≠ .reset) :
    hostOp op s = .refused .beforeFirstReset := by
  cases op with
  | read addr size => exact hostOp_access_error (.inl rfl) (busOffset_before_reset h addr size)
  | write addr size v => exact hostOp_access_error (.inr ⟨v, rfl⟩) (busOffset_before_reset h addr size)
  | wait => simp only [hostOp, busRead, busOffset_before_reset h, Except.map]
  | reset => exact absurd rfl notReset

theorem engineStep_before_reset {s : State} (h : s.wasReset = false) :
    engineStep s = .refused .beforeFirstReset := by
  simp [engineStep, h]

theorem engineStep_idle {s : State} (hw : s.wasReset = true) (hb : s.status.busy = false) :
    engineStep s = .next s := by
  simp [engineStep, hw, hb]

/-- The ENGINE's turn is refused for one reason alone. -/
theorem engineStep_next_or_refused (s : State) :
    (∃ t, engineStep s = .next t) ∨ (s.wasReset = false ∧ engineStep s = .refused .beforeFirstReset) := by
  cases hw : s.wasReset with
  | false => exact .inr ⟨rfl, engineStep_before_reset hw⟩
  | true =>
    cases hb : s.status.busy with
    | false => exact .inl ⟨s, engineStep_idle hw hb⟩
    | true => rw [engineStep_busy hw hb]; exact .inl (exists_execPending_next s)

theorem hostOp_access_next_or_refused {op : HostOp} {s : State} {addr size : Nat} (hw : s.wasReset = true)
    (access : IsAccess op addr size) :
    (∃ t, hostOp op s = .next t) ∨
    ∃ addr size r, IsAccess op addr size ∧ ¬ Admitted s.config addr size ∧ hostOp op s = .refused r := by
  by_cases admitted : Admitted s.config addr size
  · exact .inl (hostOp_access_ok access (busOffset_of_admitted hw admitted))
  · obtain ⟨r, -, hb⟩ := busOffset_of_not_admitted hw admitted
    exact .inr ⟨addr, size, r, access, admitted, hostOp_access_error access hb⟩

/-- A HOST operation answers a next state, comes before the first reset, or is an access that R62 does not admit. -/
theorem hostOp_next_or_refused (op : HostOp) (s : State) :
    (∃ t, hostOp op s = .next t) ∨ (s.wasReset = false ∧ hostOp op s = .refused .beforeFirstReset) ∨
    ∃ addr size r, IsAccess op addr size ∧ ¬ Admitted s.config addr size ∧ hostOp op s = .refused r := by
  by_cases reset : op = .reset
  · subst reset
    exact .inl ⟨_, rfl⟩
  cases hw : s.wasReset with
  | false => exact .inr (.inl ⟨rfl, hostOp_before_reset hw reset⟩)
  | true =>
    cases op with
    | read addr size => exact (hostOp_access_next_or_refused hw (.inl rfl)).imp_right .inr
    | write addr size v => exact (hostOp_access_next_or_refused hw (.inr ⟨v, rfl⟩)).imp_right .inr
    | wait => exact .inl ⟨_, hostOp_wait hw⟩
    | reset => exact absurd rfl reset

/-- Settles O42: the ENGINE's turn, an idle HOST and each HOST operation in turn. -/
theorem stepsStopOnlyAtR62AndR233 : Obligations.StepsStopOnlyAtR62AndR233 := by
  intro s
  cases turn : nextAgent s with
  | engine =>
    rw [step_engine turn]
    exact (engineStep_next_or_refused (popTurn s)).imp_right .inl
  | host =>
    rw [step_host turn]
    cases hh : s.host with
    | nil => exact .inl ⟨_, hostStep_nil (s := popTurn s) hh⟩
    | cons op ops =>
      rw [hostStep_cons (s := popTurn s) hh]
      refine (hostOp_next_or_refused op { popTurn s with host := ops }).imp_right (Or.imp_right ?_)
      rintro ⟨addr, size, r, access, other, hr⟩
      exact ⟨rfl, addr, size, r, access.imp (congrArg some) fun ⟨v, hv⟩ => ⟨v, congrArg some hv⟩, other, hr⟩

end Sys2Proof.Machine
end

section
/-! A generate command ends the key lifetime, on success and on failure, so that a second one finds no key
(70_reset_and_hazards.md R239). -/

namespace Sys2Proof.Machine

/-- Whichever way its checks go, a generate command leaves a clear key. -/
theorem keyIsClear_of_generateChecked {effect : State → State} {s t : State} (h : generateChecked effect s = .next t) :
    KeyIsClear t := by
  rcases generateChecked_cases effect s with ⟨-, hx⟩ | ⟨-, -, hx⟩ | ⟨-, hx⟩ <;> cases hx.symm.trans h <;>
    exact ⟨rfl, rfl, rfl, rfl, rfl⟩

/-- On a clear key the checks fail with CRYPTO. -/
theorem KeyIsClear.generateChecked {s : State} (clear : KeyIsClear s) (effect : State → State) :
    generateChecked effect s = .next (generateFailed .crypto s) :=
  generateChecked_empty effect clear.keyInvalid clear.keyLen

/-- The two generate commands differ in their own effect alone. -/
theorem exists_exec_eq_generateChecked {i : Instr} (generate : i = .totpGen ∨ i = .hotpGen) :
    ∃ effect, exec i = generateChecked effect := by
  rcases generate with rfl | rfl
  · exact ⟨totpEffect, rfl⟩
  · exact ⟨hotpEffect, rfl⟩

/-- Settles O32: the first command leaves a clear key, and on a clear key the second only fails. -/
theorem secondGenerateFailsWithCrypto : Obligations.SecondGenerateFailsWithCrypto := by
  intro i j s first second
  obtain ⟨effect, hi⟩ := exists_exec_eq_generateChecked first
  obtain ⟨effect', hj⟩ := exists_exec_eq_generateChecked second
  obtain ⟨e, u, hx, -⟩ := exec_completes i s
  have clear : KeyIsClear (complete e u) := keyIsClear_of_generateChecked (hi ▸ hx)
  refine ⟨complete e u, generateFailed .crypto (complete e u), hx, fun a => ?_, clear.keyLen, clear.keyInvalid, ?_,
    rfl, rfl, rfl, rfl⟩
  · rw [clear.key, Memory.read_zeroed]
  · rw [hj, clear.generateChecked]

end Sys2Proof.Machine
end

section
/-! The reset (70_reset_and_hazards.md R230, R231), and that nothing else is answered before the first one (R233). -/

namespace Sys2Proof.Machine

/-- The HOST's turn takes its next operation, before the first reset too. -/
theorem step_hostOp {op : HostOp} {s : State} (turn : nextAgent s = .host) (next : s.host.head? = some op) :
    step s = hostOp op (afterIssue s) := by
  obtain ⟨ops, hops⟩ := List.head?_eq_some_iff.1 next
  rw [step_host turn, hostStep_cons (s := popTurn s) hops, afterIssue, hops]
  rfl

theorem step_reset {s : State} (turn : nextAgent s = .host) (next : s.host.head? = some .reset) :
    step s = .next (applyReset (afterIssue s)) := step_hostOp turn next

/-- After a reset every register but PARAM reads 0. -/
theorem readReg_applyReset (s : State) {r : Reg} (h : r ≠ .param) : readReg (applyReset s) r = 0 := by
  cases r with
  | param => exact absurd rfl h
  | status => exact statusHasItsLayout.2.1 s.config
  | codeStr1 => exact show (0#16 ++ 0#16 : Word) = 0 by decide
  | _ => rfl

/-- PARAM is at the offset 0x4C alone. -/
theorem readOffset_applyReset (s : State) {off : Nat} (h : off ≠ 0x4C) : readOffset (applyReset s) off = 0 := by
  unfold readOffset
  cases hr : regAt off with
  | none => rfl
  | some r =>
    refine readReg_applyReset s fun param => h ?_
    subst param
    simpa [registerMap] using mem_registerMap_of_regAt hr

/-- Settles O43: the step is `applyReset`, and every register but PARAM reads a field that it clears. -/
theorem resetReturnsEveryRegisterToItsValue : Obligations.ResetReturnsEveryRegisterToItsValue :=
  fun _ turn next => ⟨_, step_reset turn next, fun _ _ _ h => readOffset_applyReset _ h, rfl, fun _ => rfl, rfl, rfl,
    rfl⟩

/-- Settles O44: both agents are refused in their turn, and only the reset of the HOST's operations is not. -/
theorem nothingButResetBeforeTheFirstReset : Obligations.NothingButResetBeforeTheFirstReset := by
  intro s never
  refine ⟨fun turn => ?_, fun op turn next notReset => ?_, fun turn next => ⟨_, step_reset turn next, rfl⟩⟩
  · rw [step_engine turn, engineStep_before_reset (s := popTurn s) never]
  · rw [step_hostOp turn next, hostOp_before_reset (s := afterIssue s) never notReset]

end Sys2Proof.Machine
end

section
/-! A pending command does not stay pending forever (70_reset_and_hazards.md R241). -/

namespace Sys2Proof.Machine

/-- Every move takes one turn from the schedule. -/
theorem Move.turns {s t : State} (m : Move s t) : t.turns = s.turns.tail := by
  cases m with
  | command run exec => exact (execPending_frame exec).turns
  | idle | look | reset => rfl
  | @write off v issues => exact (writeOffset_frame (afterIssue s) off v).turns

/-- Once a reset has been applied it stays applied. -/
theorem Move.wasReset {s t : State} (m : Move s t) (h : s.wasReset = true) : t.wasReset = true := by
  cases m with
  | command run exec => exact (execPending_frame exec).wasReset.trans h
  | idle | look => exact h
  | write => exact (hostFrame_writeOffset s _ _).wasReset.trans h
  | reset => rfl

/-- After `k` steps no command is pending, or a refusal came before. -/
def Settles (k : Nat) (s : State) : Prop :=
  (∃ t, run k s = .next t ∧ t.status.busy = false) ∨ ∃ r, run k s = .refused r

theorem settles_zero {s : State} (idle : s.status.busy = false) : Settles 0 s := .inl ⟨s, rfl, idle⟩

theorem Settles.of_step {s t : State} {k : Nat} (step : step s = .next t) (h : Settles k t) : Settles (k + 1) s := by
  unfold Settles
  rwa [run_succ step]

/-- By induction on the schedule: each step takes a turn from it, and when none is left the ENGINE moves. An idle block
has settled already, so BUSY = 1 is no premise. -/
theorem exists_settles (ts : List Agent) :
    ∀ {s : State}, s.wasReset = true → s.turns = ts → ∃ k ≤ ts.length + 1, Settles k s := by
  induction ts with
  | nil =>
    intro s hw turns
    cases busy : s.status.busy with
    | false => exact ⟨0, Nat.zero_le _, settles_zero busy⟩
    | true =>
      obtain ⟨t, hx⟩ := exists_execPending_next s
      exact ⟨1, Nat.le_refl _,
        (settles_zero (execPending_completed hx).1).of_step ((step_of_busy hw busy turns).trans hx)⟩
  | cons a ts ih =>
    intro s hw turns
    cases h : step s with
    | next t =>
      have m := move_of_step h
      obtain ⟨k, hk, settles⟩ := ih (m.wasReset hw) (by rw [m.turns, turns, List.tail_cons])
      exact ⟨k + 1, Nat.succ_le_succ hk, settles.of_step h⟩
    | fault f => exact nomatch f
    | refused r => exact ⟨1, Nat.succ_le_succ (Nat.zero_le _), .inr ⟨r, run_succ_refused h 0⟩⟩

/-- Settles O53: the schedule of the state is a list, which its steps use up. -/
theorem pendingCommandCompletes : Obligations.PendingCommandCompletes :=
  fun _ hw _ => exists_settles _ hw rfl

end Sys2Proof.Machine
end
